-- ==== Sys2Proof/Word.lean ====
section
/-! DEFINITION. The plain words of HUFFCORE: bytes, 64-bit counts, node indices, bits and bit strings
(spec/00_scope.md R9, R12, R16). -/

namespace Sys2Proof

/-- One bit (R12, R16). -/
abbrev Bit := BitVec 1

/-- One byte of IN or OUT, one Symbol, or one 8-bit opcode (R17, R70). -/
abbrev Byte := BitVec 8

/-- A 64-bit unsigned count, weight, length or offset (`COUNT_W`, R9). -/
abbrev Word := BitVec 64

/-- A node index: 0..510, or NIL = 0x1FF (R10, R30). -/
abbrev NodeIx := BitVec 9

/-- A code: a finite sequence of bits, first bit first (R16). -/
abbrev BitString := List Bit

end Sys2Proof
end

