-- ==== Sys2Proof/Config.lean ====
section
/-! DEFINITION. The parameters of HUFFCORE (spec/00_scope.md R9, R10, R11) and its free values: what the
spec leaves unspecified is an opaque constant applied to the name of the register and to a counter, so that
no proof can see what it is (spec/93_implementation_defined.md U4, U5). -/

namespace Sys2Proof.Config

/-- `HEAP_CAP`, "at most 256 entries" (R9). -/
def heapCap : Nat := 256

/-- `NODE_CAP`, 256 leaves plus 255 internal nodes (R9). -/
def nodeCap : Nat := 511

/-- `MAX_CLEN`, "Maximum code length is bounded by 255" (R9). -/
def maxClen : Nat := 255

/-- `HDR_LEN(n)`, the bytes of a header with `n` entries (R9, R80). -/
def hdrLen (n : Nat) : Nat := 13 + 9 * n

/-- `NIL`, the node index that means "no node" (R10). -/
def nil : NodeIx := 0x1FF

/-- `PAD_BIT` (R10). -/
def padBit : Bit := 0

/-- `SINGLE_CODE`, the one-bit code of a single-leaf tree (R10, R158). -/
def singleCode : BitString := [0]

/-- The values R11 allows the open parameter `MAX_IN_LEN`: `MAX_IN_LEN <= 2^56`. The model takes it as an argument:
the field `maxInLen` of State, which no step writes (notes/assumptions/1.md). -/
abbrev MaxInLen := Fin (2 ^ 56 + 1)

/-- The default of `MAX_IN_LEN`, `2^32 - 1` (R11). -/
def maxInLenDefault : MaxInLen := ⟨2 ^ 32 - 1, by decide⟩

/-- The names under which a free value can be drawn: a register or field whose value the spec leaves
unspecified. Two draws agree only where name, draw number and index agree. -/
inductive FreeReg where
  | acc | held | wbits | scount | vbits | tbits | pbase | rbits | bit
  | cursor | root | nnodes | hsize | iptr | scan
  | freq | nodeTag | nodeSym | nodeWeight | nodeLeft | nodeRight
  | padded | outByte
  deriving DecidableEq, Repr

/-- A free value of `w` bits for the register `r`: the `draw`-th draw, entry `idx` of a register file.
It has no body: nothing can evaluate it. DESIGN CHOICE of its form (safe; notes/assumptions/2.md). -/
opaque freeBits (r : FreeReg) (w draw idx : Nat) : BitVec w

/-- A free set of node indices for HEAP. -/
opaque freeHeap (draw : Nat) : List NodeIx

/-- A free CODE entry. -/
opaque freeCode (draw idx : Nat) : Option BitString

end Sys2Proof.Config
end

