-- ==== Sys2Proof/Machine/State.lean ====
section
/-! DEFINITION. The state of HUFFCORE as plain data (spec/10_state.md R20 to R39), the reasons a step can
stop, the typed errors of the spec, and the state after reset (R37). -/

namespace Sys2Proof.Machine

/-- The tag of a NODE entry, `NTAG`: 0 = Leaf, 1 = Internal (R30). -/
inductive NodeTag where
  | leaf
  | internal
  deriving DecidableEq, Repr

/-- One entry of the node arena NODE (R30). -/
structure Node where
  tag : NodeTag     -- NTAG
  sym : Byte        -- NSYM: the leaf's symbol; 0 for an Internal node
  weight : Word     -- NW
  left : NodeIx     -- NL: NIL for a Leaf
  right : NodeIx    -- NR: NIL for a Leaf
  deriving DecidableEq, Repr

/-- The working state: the scalar datapath registers (R21), the scan counters (R24) and the four register
files (R29, R30, R32, R33). It is unspecified whenever no command runs (R22, R39). -/
structure Work where
  acc : BitVec 8       -- ACC, the writer's accumulator byte
  held : BitVec 4      -- HELD, bits held in ACC
  wbits : Word         -- WBITS, bits pushed so far
  scount : BitVec 32   -- SCOUNT, symbol_count
  vbits : BitVec 8     -- VBITS, valid_bits_in_last_byte
  tbits : Word         -- TBITS, total_bit_count
  pbase : Word         -- PBASE, offset of the first payload byte
  rbits : Word         -- RBITS, payload bits consumed
  bit : Bit            -- BIT, the bit GETB fetched last
  cursor : NodeIx      -- CURSOR
  root : NodeIx        -- ROOT, NIL is the no-tree result
  nnodes : BitVec 10   -- NNODES
  hsize : BitVec 9     -- HSIZE
  iptr : Word          -- IPTR (R24)
  scan : BitVec 9      -- SCAN (R24), 0..256
  freq : Vector Word 256               -- FREQ[0..255] (R29)
  node : Vector Node 511               -- NODE[0..510] (R30)
  heap : List NodeIx                   -- HEAP (R32): a set, kept as a list in rising order (notes/assumptions/19.md)
  code : Vector (Option BitString) 256 -- CODE[0..255] (R33): none is "absent", CLEN = 0 (U3)
  deriving DecidableEq, Repr

/-- A byte buffer: the bytes it holds, by offset, offsets strictly rising. An offset that is not listed holds
no value (notes/assumptions/3.md). -/
abbrev Memory := List Host.Cell

/-- One move of the host: the only things the outside world can do to HUFFCORE (R26 to R28, R34, R39, R265,
R268). -/
inductive HostAct where
  | regWrite (off : Nat) (v : Word)   -- write the register at byte offset `off` of the register window
  | regRead (off : Nat)               -- read the register at byte offset `off`
  | inWrite (a : Word) (b : Byte)     -- place byte `b` at offset `a` of IN
  | outRead (a : Word)                -- read the byte at offset `a` of OUT
  | reset                             -- assert the platform reset input
  deriving DecidableEq, Repr

/-- The whole machine, and the argument of the model that R11 leaves open, `maxInLen`: every state is a state of the
HUFFCORE instance with that MAX_IN_LEN. -/
structure State where
  status : BitVec 32        -- STATUS (R25)
  inLen : Word              -- IN_LEN (R27)
  outLen : Word             -- OUT_LEN (R27), also the append pointer (R58)
  outCap : Word             -- OUT_CAP (R27)
  inOk : Bit                -- IN_OK (R27)
  cmd : Option Byte         -- CMD (R26): a value the host wrote that no step has taken yet
  phase : Byte              -- PHASE (R23)
  op : Byte                 -- OP (R24)
  work : Work               -- the working state (R20)
  inBuf : Memory            -- IN (R34, R51)
  outBuf : Memory           -- OUT (R34, R52)
  maxInLen : Config.MaxInLen -- MAX_IN_LEN (R11): the instance's parameter, no register (R36); notes/assumptions/1.md
  sub : Option Byte         -- model's own: a subroutine-only operation called by itself (notes/assumptions/5.md)
  hArg : NodeIx             -- model's own: the operand of HINS and the result of HEXT (notes/assumptions/6.md)
  bArg : Bit                -- model's own: the operand of PUSH1 (notes/assumptions/6.md)
  endArg : BitVec 4         -- model's own: the operand of END (notes/assumptions/6.md)
  hostQ : List HostAct      -- model's own: the host's moves still to come, first first (notes/assumptions/7.md)
  hostData : Word           -- model's own: what the host's last read returned (notes/assumptions/7.md)
  draws : Nat               -- model's own: how many free values have been drawn (notes/assumptions/2.md)
  deriving DecidableEq, Repr

/-- The typed errors a command can raise, one for each row of R237 and EmptyHeapError (R236). Taking one is the
abort sequence of R246, not a stop of the machine. -/
inductive Raise where
  | ioNotOk         -- IOError(1): IN_OK = 0 at command issue (R100)
  | ioTooLong       -- IOError(2): IN_LEN > MAX_IN_LEN at command issue (R100)
  | ioOutFull       -- IOError(3): PutOut with OUT_LEN >= OUT_CAP (R58)
  | malCount        -- MalformedHeaderError(1): symbol_count outside 0..256 (R197)
  | malSum          -- MalformedHeaderError(2): the frequencies sum to 2^64 or more (R201)
  | malValid        -- MalformedHeaderError(3): valid_bits_in_last_byte outside 1..8 (R200)
  | malTotal        -- MalformedHeaderError(4): total_bit_count exceeds the available bits (R199)
  | malNoTree       -- MalformedHeaderError(5): no tree, yet total_bit_count > 0 (R217)
  | malMidCode      -- MalformedHeaderError(6): the bits end inside a code (R221)
  | truncCount      -- TruncatedHeaderError(1): IN_LEN < 4 (R204)
  | truncPairs      -- TruncatedHeaderError(2): IN_LEN < 13 + 9 n (R204)
  | emptyHeap       -- EmptyHeapError: HEXT on an empty heap (R123)
  | guardHeap       -- InternalGuard(1): HINS with HSIZE = 256 (R122)
  | guardArena      -- InternalGuard(2): LEAF or MERGE with NNODES = 511 (R136, R141)
  | guardCode       -- InternalGuard(3): a code longer than 255 bits (R157)
  | guardWriter     -- InternalGuard(4): FIN with WBITS != TBITS (R177)
  deriving DecidableEq, Repr

/-- The machine stops: a read to which the spec gives no meaning. No command the host may issue reaches one. -/
inductive Fault where
  /-- GetIn at an offset at or beyond IN_LEN: "a model gives it no meaning (fault)" (R57, U14). Raised by FACC,
  PUSHC, HPAR and GETB outside their preconditions. Safe. -/
  | inOutOfRange (a : Nat)
  /-- GetIn at an offset below IN_LEN that the host never filled (R51, R268; notes/assumptions/3.md). Raised by
  FACC, PUSHC, HPAR and GETB. Safe. -/
  | inUnwritten (a : Nat)
  /-- A NODE entry is read at NIL, which is no node (R10, R30). Raised by HEXT, MERGE, ROOT, CGEN and WALK1 outside
  their preconditions. Safe (notes/assumptions/20.md). -/
  | nilNode
  /-- LEAF with SCAN outside 0..255, which is no Symbol (R136). Raised by LEAF outside its precondition. Safe
  (notes/assumptions/20.md). -/
  | notASymbol (v : Nat)
  deriving DecidableEq, Repr

/-- The model gives the request no meaning. -/
inductive Refusal where
  /-- An instruction that has no meaning yet. No arm of exec raises it. Safe. -/
  | notModelled (mnemonic : String)
  /-- A value written to CMD other than 0x01 and 0x02: "a model must refuse it (no step)" (R76, U6). Raised by step.
  Safe. -/
  | reservedCommand (c : Nat)
  /-- A PHASE value that is no micro-operation PHASE can hold: unreachable (R23, R76). Raised by step. Safe. -/
  | illegalPhase (b : Byte)
  /-- A call of an operation that is no subroutine (R107). Raised by step. Safe. -/
  | illegalCall (b : Byte)
  /-- A host access to a reserved offset, a write to a read-only register, or a read of CMD (R28, U7). Raised by
  step. Safe. -/
  | hostAccess (off : Nat)
  deriving DecidableEq, Repr

/-- The outcome of an operation that a micro-operation runs: it completes with a result, it raises a typed error
(R15), or the machine stops. -/
inductive Res (α : Type) where
  | ok (a : α) (s : State)
  | raise (e : Raise) (s : State)
  | stop (f : Fault)

/-- The working state after reset. The spec leaves every one of these values unspecified (R37).
DESIGN CHOICE zero (unsafe; notes/assumptions/4.md). -/
def Work.reset : Work where
  acc := 0
  held := 0
  wbits := 0
  scount := 0
  vbits := 0
  tbits := 0
  pbase := 0
  rbits := 0
  bit := 0
  cursor := 0
  root := 0
  nnodes := 0
  hsize := 0
  iptr := 0
  scan := 0
  freq := Vector.replicate 256 0
  node := Vector.replicate 511 ⟨.leaf, 0, 0, 0, 0⟩
  heap := []
  code := Vector.replicate 256 none

/-- The machine right after reset (R37, R38): control and status registers zero, PHASE idle. It is the instance with the
default MAX_IN_LEN of R11; another instance after reset is this state with another `maxInLen`. -/
def State.reset : State where
  status := 0
  inLen := 0
  outLen := 0
  outCap := 0
  inOk := 0
  cmd := none
  phase := 0x00
  op := 0x00
  work := Work.reset
  inBuf := []
  outBuf := []
  maxInLen := Config.maxInLenDefault
  sub := none
  hArg := 0
  bArg := 0
  endArg := 0
  hostQ := []
  hostData := 0
  draws := 0

end Sys2Proof.Machine
end

