-- ==== Sys2Proof/Machine/Flags.lean ====
section
/-! DEFINITION. STATUS, the only flag register: its fields (R25), the cause and detail codes (R236, R237) and the
two words that END and the abort sequence write (R106, R246). No other operation writes a flag. -/

namespace Sys2Proof.Machine

/-- The fields of STATUS put together in the layout of R25; bits 3 and 15:12 read 0. -/
def statusWord (done fail empty : Bit) (cause detail : BitVec 4) (stage lastcmd : Byte) : BitVec 32 :=
  lastcmd ++ stage ++ 0#4 ++ detail ++ cause ++ 0#1 ++ empty ++ fail ++ done

/-- `STATUS.DONE`, bit 0. -/
def statusDone (w : BitVec 32) : Bit := w.extractLsb' 0 1
/-- `STATUS.FAIL`, bit 1. -/
def statusFail (w : BitVec 32) : Bit := w.extractLsb' 1 1
/-- `STATUS.EMPTY`, bit 2. -/
def statusEmpty (w : BitVec 32) : Bit := w.extractLsb' 2 1
/-- `STATUS.CAUSE`, bits 7:4. -/
def statusCause (w : BitVec 32) : BitVec 4 := w.extractLsb' 4 4
/-- `STATUS.DETAIL`, bits 11:8. -/
def statusDetail (w : BitVec 32) : BitVec 4 := w.extractLsb' 8 4
/-- `STATUS.STAGE`, bits 23:16. -/
def statusStage (w : BitVec 32) : Byte := w.extractLsb' 16 8
/-- `STATUS.LASTCMD`, bits 31:24. -/
def statusLastcmd (w : BitVec 32) : Byte := w.extractLsb' 24 8
/-- The reserved bits of STATUS, 3 and 15:12, read 0 (R25). -/
def statusReservedZero (w : BitVec 32) : Bool :=
  w.extractLsb' 3 1 == 0#1 && w.extractLsb' 12 4 == 0#4

/-- The cause code of a typed error (R236). -/
def Raise.cause : Raise → BitVec 4
  | .ioNotOk | .ioTooLong | .ioOutFull => 1
  | .malCount | .malSum | .malValid | .malTotal | .malNoTree | .malMidCode => 3
  | .truncCount | .truncPairs => 4
  | .emptyHeap => 5
  | .guardHeap | .guardArena | .guardCode | .guardWriter => 6

/-- The detail code of a typed error (R237). -/
def Raise.detail : Raise → BitVec 4
  | .emptyHeap => 0
  | .ioNotOk | .malCount | .truncCount | .guardHeap => 1
  | .ioTooLong | .malSum | .truncPairs | .guardArena => 2
  | .ioOutFull | .malValid | .guardCode => 3
  | .malTotal | .guardWriter => 4
  | .malNoTree => 5
  | .malMidCode => 6

/-- The cause code of EmptyInputError, which is a completion and not a failure (R236, R239). -/
abbrev causeEmpty : BitVec 4 := 2

/-- The word END(cause) writes to STATUS (R106). -/
def endStatus (cause : BitVec 4) (op : Byte) : BitVec 32 :=
  statusWord 1 0 (if cause = causeEmpty then 1 else 0) cause 0 0 op

/-- The word the abort sequence writes to STATUS (R246). -/
def abortStatus (e : Raise) (stage op : Byte) : BitVec 32 :=
  statusWord 1 1 0 e.cause e.detail stage op

end Sys2Proof.Machine
end

