-- ==== Sys2Proof/Machine/Ops.lean ====
section
/-! DEFINITION. The shared operations: sequencing of results, the byte buffers and their two primitives (R14, R57,
R58), free values, normal completion (R106) and taking an exception, the abort sequence (R246). -/

namespace Sys2Proof.Machine

/-! ### Sequencing -/

/-- `first ; then`: a raise or a stop ends the rule at once (R13, R15). -/
def Res.bind {α β : Type} (r : Res α) (k : α → State → Res β) : Res β :=
  match r with
  | .ok a s => k a s
  | .raise e s => .raise e s
  | .stop f => .stop f

/-- `for x in xs in that order: body x` (R13). -/
def forEach {α : Type} (xs : List α) (body : α → State → Res Unit) (s : State) : Res Unit :=
  match xs with
  | [] => .ok () s
  | x :: rest => (body x s).bind fun _ s' => forEach rest body s'

/-! ### Named updates of the state -/

/-- Replace the working state. -/
def State.setWork (s : State) (w : Work) : State := { s with work := w }

/-- `PHASE <- p` (R15). -/
def State.setPhase (s : State) (p : Byte) : State := { s with phase := p }

/-- Replace OUT and its append pointer. -/
def State.setOut (s : State) (m : Memory) (len : Word) : State := { s with outBuf := m, outLen := len }

/-- Replace the working state, as the last part of a rule. -/
def putWork (w : Work) (s : State) : Res Unit := .ok () (s.setWork w)

/-- Count one drawn free value. -/
def State.countDraw (s : State) : State := { s with draws := s.draws + 1 }

/-! ### The byte buffers -/

/-- Offsets strictly rising: the one canonical form of a buffer. -/
def Memory.wf : Memory → Bool
  | [] => true
  | [_] => true
  | a :: b :: rest => decide (a.1 < b.1) && Memory.wf (b :: rest)

/-- The byte at offset `a`, or none where nothing was placed. -/
def Memory.read (m : Memory) (a : Nat) : Option Byte :=
  match m with
  | [] => none
  | c :: rest => if c.1 = a then some c.2 else Memory.read rest a

/-- Place byte `b` at offset `a`, keeping the offsets in rising order. -/
def Memory.write (m : Memory) (a : Nat) (b : Byte) : Memory :=
  match m with
  | [] => [(a, b)]
  | c :: rest =>
    if a < c.1 then (a, b) :: c :: rest
    else if c.1 = a then (a, b) :: rest
    else c :: Memory.write rest a b

/-- `GetIn(a)`, the only read primitive, with its bound check (R57). -/
def getIn (a : Nat) (s : State) : Res Byte :=
  if a < s.inLen.toNat then
    match s.inBuf.read a with
    | some b => .ok b s
    | none => .stop (.inUnwritten a)
  else .stop (.inOutOfRange a)

/-- `MemRead(IN, a, n)`: n single-byte reads in increasing offset order, least significant byte first (R14, R55,
R59). -/
def memReadIn (n a : Nat) (s : State) : Res Nat :=
  match n with
  | 0 => .ok 0 s
  | n + 1 =>
    (getIn a s).bind fun b s1 =>
    (memReadIn n (a + 1) s1).bind fun v s2 =>
    .ok (b.toNat + 256 * v) s2

/-- `PutOut(b)`, the only write primitive (R58). -/
def putOut (b : Byte) (s : State) : Res Unit :=
  if s.outCap.toNat ≤ s.outLen.toNat then .raise .ioOutFull s
  else .ok () (s.setOut (s.outBuf.write s.outLen.toNat b) (s.outLen + 1))

/-- `PutOutN(m, v)`: m bytes of v, least significant first (R191). -/
def putOutN (m v : Nat) (s : State) : Res Unit :=
  match m with
  | 0 => .ok () s
  | m + 1 => (putOut (BitVec.ofNat 8 (v % 256)) s).bind fun _ s1 => putOutN m (v / 256) s1

/-! ### Free values -/

/-- Store the mathematical integer `v` into a `w`-bit register `r`. Where it fits, it is stored; no pseudocode
operation wraps silently (R12), and the spec states no value where it does not fit, so there the register takes a
free value. DESIGN CHOICE (safe; notes/assumptions/8.md). -/
def store (r : Config.FreeReg) (w v : Nat) (s : State) : Res (BitVec w) :=
  if v < 2 ^ w then .ok (BitVec.ofNat w v) s
  else .ok (Config.freeBits r w s.draws 0) s.countDraw

/-- A NODE entry whose five fields are free. -/
def freeNode (draw idx : Nat) : Node where
  tag := if Config.freeBits .nodeTag 1 draw idx = 0 then .leaf else .internal
  sym := Config.freeBits .nodeSym 8 draw idx
  weight := Config.freeBits .nodeWeight 64 draw idx
  left := Config.freeBits .nodeLeft 9 draw idx
  right := Config.freeBits .nodeRight 9 draw idx

/-- A working state every part of which is free (R39, U4). -/
def freeWork (draw : Nat) : Work where
  acc := Config.freeBits .acc 8 draw 0
  held := Config.freeBits .held 4 draw 0
  wbits := Config.freeBits .wbits 64 draw 0
  scount := Config.freeBits .scount 32 draw 0
  vbits := Config.freeBits .vbits 8 draw 0
  tbits := Config.freeBits .tbits 64 draw 0
  pbase := Config.freeBits .pbase 64 draw 0
  rbits := Config.freeBits .rbits 64 draw 0
  bit := Config.freeBits .bit 1 draw 0
  cursor := Config.freeBits .cursor 9 draw 0
  root := Config.freeBits .root 9 draw 0
  nnodes := Config.freeBits .nnodes 10 draw 0
  hsize := Config.freeBits .hsize 9 draw 0
  iptr := Config.freeBits .iptr 64 draw 0
  scan := Config.freeBits .scan 9 draw 0
  freq := Vector.ofFn fun i => Config.freeBits .freq 64 draw i.val
  node := Vector.ofFn fun i => freeNode draw i.val
  heap := Config.freeHeap draw
  code := Vector.ofFn fun i => Config.freeCode draw i.val

/-- The working state is discarded: unspecified from here on (R39, R246). -/
def State.discardWork (s : State) : State := (s.setWork (freeWork s.draws)).countDraw

/-! ### Completion and abort -/

/-- `END(cause)`: STATUS all at once, OUT_LEN left as it stands, PHASE and OP idle (R106); the working state is
discarded (R39). -/
def complete (cause : BitVec 4) (s : State) : State :=
  { s.discardWork with status := endStatus cause s.op, phase := 0x00, op := 0x00 }

/-- Taking an exception: the abort sequence run by `raise e` from the operation whose opcode is `stage` (R246).
OUT_LEN is 0, STATUS is written all at once, PHASE and OP are idle and the working state is discarded. -/
def abort (e : Raise) (stage : Byte) (s : State) : State :=
  { s.discardWork with status := abortStatus e stage s.op, outLen := 0, phase := 0x00, op := 0x00 }

/-- The contents of OUT become unspecified: no offset holds a value (R246, U5; notes/assumptions/3.md). -/
def State.disownOut (s : State) : State := { s with outBuf := [] }

/-- The end of a micro-operation whose opcode is `stage`: where it completes, the sequencer moves on by `k`
(R107); where it raises, the abort sequence runs and the bytes already appended are disowned (R246). -/
def settle (stage : Byte) (r : Res Unit) (k : State → State) : Host.Outcome State Fault Refusal :=
  match r with
  | .ok _ s => .next (k s)
  | .raise e s => .next (abort e stage s.disownOut)
  | .stop f => .fault f

end Sys2Proof.Machine
end

