-- ==== Sys2Proof/Machine/Operands.lean ====
section
/-! DEFINITION. The operand forms: every operand is implicit (R71), a register, an entry of a register file or a byte
of IN. Here are the accessors of the register files FREQ, NODE and CODE and of the Symbol operand SCAN (R13, R29,
R30, R33). -/

namespace Sys2Proof.Machine

/-! ### Named updates of the working state (R13, R21, R24) -/

section
variable (w : Work)

/-- `SCOUNT <- v`. -/
def Work.setScount (v : BitVec 32) : Work := { w with scount := v }

/-- `TBITS <- v`. -/
def Work.setTbits (v : Word) : Work := { w with tbits := v }

/-- `VBITS <- v`. -/
def Work.setVbits (v : BitVec 8) : Work := { w with vbits := v }

/-- `PBASE <- v`. -/
def Work.setPbase (v : Word) : Work := { w with pbase := v }

/-- `BIT <- b, RBITS <- n`. -/
def Work.setBit (b : Bit) (n : Word) : Work := { w with bit := b, rbits := n }

/-- `CURSOR <- i`. -/
def Work.setCursor (i : NodeIx) : Work := { w with cursor := i }

/-- `ROOT <- i`. -/
def Work.setRoot (i : NodeIx) : Work := { w with root := i }

/-- `NNODES <- n`. -/
def Work.setNnodes (n : BitVec 10) : Work := { w with nnodes := n }

/-- `HEAP <- h, HSIZE <- n`. -/
def Work.setHeap (h : List NodeIx) (n : BitVec 9) : Work := { w with heap := h, hsize := n }

/-- `ACC <- a, HELD <- n`. -/
def Work.setAcc (a : BitVec 8) (n : BitVec 4) : Work := { w with acc := a, held := n }

/-- `WBITS <- n`. -/
def Work.setWbits (n : Word) : Work := { w with wbits := n }

/-- `IPTR <- v`. -/
def Work.setIptr (v : Word) : Work := { w with iptr := v }

/-- `SCAN <- v`. -/
def Work.setScan (v : BitVec 9) : Work := { w with scan := v }

end

/-! ### The register files and the Symbols -/

/-- The Symbols 0, 1, ..., 255 in ascending order (R138, R192). -/
def symbols : List Byte := (List.range 256).map (BitVec.ofNat 8)

/-- `FREQ[b]` (R29). -/
def Work.freqAt (w : Work) (b : Byte) : Word := w.freq[b.toNat]'(by have := b.isLt; omega)

/-- `FREQ[b] <- v` (R29). -/
def Work.setFreq (w : Work) (b : Byte) (v : Word) : Work :=
  { w with freq := w.freq.set b.toNat v (by have := b.isLt; omega) }

/-- `CODE[b]`: none where the Symbol has no code (R33, U3). -/
def Work.codeAt (w : Work) (b : Byte) : Option BitString := w.code[b.toNat]'(by have := b.isLt; omega)

/-- `CLEN[b] <- len(path) ; CBITS[b] <- path` (R33, R157). -/
def Work.setCode (w : Work) (b : Byte) (path : BitString) : Work :=
  { w with code := w.code.set b.toNat (some path) (by have := b.isLt; omega) }

/-- The length of a CODE entry, 0 where the code is absent (R33). -/
def codeLen (c : Option BitString) : Nat :=
  match c with
  | none => 0
  | some path => path.length

/-- `CLEN[b]` (R33). -/
def Work.clen (w : Work) (b : Byte) : Nat := codeLen (w.codeAt b)

/-- `CBITS[b]` (R33): its `CLEN[b]` bits, root edge first. -/
def Work.cbits (w : Work) (b : Byte) : BitString :=
  match w.codeAt b with
  | none => []
  | some path => path

/-- The NODE entry at index `i`, or none at NIL, which is no node (R10, R30). -/
def Work.nodeAt (w : Work) (i : NodeIx) : Option Node := w.node[i.toNat]?

/-- Write the NODE entry at index `i` (R30); NIL has no entry to write. -/
def Work.setNode (w : Work) (i : NodeIx) (nd : Node) : Work :=
  { w with node := w.node.setIfInBounds i.toNat nd }

/-- The Symbol operand SCAN = s of LEAF (R136). -/
def scanSymbol (s : State) : Res Byte :=
  if s.work.scan.toNat < 256 then .ok (s.work.scan.setWidth 8) s
  else .stop (.notASymbol s.work.scan.toNat)

/-- Read a NODE entry as an operand: NIL is no node (R30). -/
def getNode (i : NodeIx) (s : State) : Res Node :=
  match s.work.nodeAt i with
  | some nd => .ok nd s
  | none => .stop .nilNode

/-- The table FREQ row by row: each Symbol with its frequency, in ascending order of the Symbols (R138, R192). -/
def Work.freqRows (w : Work) : List (Byte × Word) := symbols.zip w.freq.toList

/-- The first Symbol at or after `k` with nonzero frequency: the next turn of BUILD's leaf scan (R107, R139). -/
def nextSymbol (k : Nat) (w : Work) : Option Byte :=
  (w.freqRows.find? fun row => decide (k ≤ row.1.toNat) && row.2 != 0).map Prod.fst

/-- The number of Symbols with nonzero frequency (R191, R192). -/
def distinctSymbols (w : Work) : Nat := (w.freq.toList.filter fun v => v != 0).length

/-- The sum of all frequencies, as a mathematical integer (R196, R201). -/
def freqSum (w : Work) : Nat := (w.freq.toList.map BitVec.toNat).sum

/-- The sum over all Symbols of `FREQ[s] * CLEN[s]`, as a mathematical integer (R191, R193). -/
def bitSum (w : Work) : Nat := (List.zipWith (fun v c => v.toNat * codeLen c) w.freq.toList w.code.toList).sum

end Sys2Proof.Machine
end

