-- ==== Sys2Proof/Machine/Sequencer.lean ====
section
/-! DEFINITION. The sequencer: the transitions of PHASE, one function for each row group of R107. PHASE is the
program counter and the microprogram is fixed (R23, R101, R102). -/

namespace Sys2Proof.Machine

/-- Enter END with its operand (R107: the rows END(0) and END(2)). -/
def gotoEnd (cause : BitVec 4) (s : State) : State := { s.setPhase 0x1F with endArg := cause }

/-- Write the scan counter IPTR (R24). -/
def setIptr (v : Word) (s : State) : State := s.setWork (s.work.setIptr v)

/-- Write the scan counter SCAN (R24). -/
def setScan (v : BitVec 9) (s : State) : State := s.setWork (s.work.setScan v)

/-- `while HSIZE > 1: MERGE`, then ROOT (R107, R139, R140). -/
def mergeOrRoot (s : State) : State :=
  if 1 < s.work.hsize.toNat then s.setPhase 0x15 else s.setPhase 0x16

/-- BUILD's leaf scan from Symbol `k` on (R107, R138, R139): the next Symbol with nonzero frequency goes to LEAF;
where there is none, the scan is done and SCAN is 256. -/
def leafScan (k : Nat) (s : State) : State :=
  match nextSymbol k s.work with
  | some b => (setScan (b.setWidth 9) s).setPhase 0x12
  | none => mergeOrRoot (setScan 256 s)

/-- After CLR (R101, R102, R107). OP holds ENCODE or DECODE; R100 runs DECODE where it is not ENCODE
(notes/assumptions/18.md). -/
def afterClr (s : State) : State :=
  if s.op = 0x01 then
    if 0 < s.inLen.toNat then (setIptr 0 s).setPhase 0x11 else leafScan 0 (setIptr 0 s)
  else
    if s.inLen.toNat = 0 then gotoEnd 2 s else s.setPhase 0x1C

/-- After FACC: FSCAN's loop over IN (R105, R107). -/
def afterFacc (s : State) : State :=
  let s1 := setIptr (s.work.iptr + 1) s
  if s1.work.iptr.toNat < s.inLen.toNat then s1.setPhase 0x11 else leafScan 0 s1

/-- After HPAR: BUILD begins (R102, R107). -/
def afterHpar (s : State) : State := leafScan 0 s

/-- After LEAF: the leaf scan goes on with the next Symbol (R107, R139). -/
def afterLeaf (s : State) : State := leafScan (s.work.scan.toNat + 1) s

/-- After MERGE (R107, R140). -/
def afterMerge (s : State) : State := mergeOrRoot s

/-- After ROOT (R101, R102, R107). -/
def afterRoot (s : State) : State :=
  if s.op = 0x01 then
    if s.work.root = Config.nil then gotoEnd 2 s else s.setPhase 0x17
  else s.setPhase 0x20

/-- After CGEN (R101, R107). -/
def afterCgen (s : State) : State := s.setPhase 0x18

/-- After HSER: PAYLOAD's loop over IN begins (R107, R180); with IN_LEN = 0, which no run reaches here, the loop is empty
(notes/assumptions/16.md). -/
def afterHser (s : State) : State :=
  if 0 < s.inLen.toNat then (setIptr 0 s).setPhase 0x1A else (setIptr 0 s).setPhase 0x1B

/-- After PUSHC: PAYLOAD's loop over IN (R107, R180). -/
def afterPushc (s : State) : State :=
  let s1 := setIptr (s.work.iptr + 1) s
  if s1.work.iptr.toNat < s.inLen.toNat then s1.setPhase 0x1A else s1.setPhase 0x1B

/-- After FIN (R101, R107). -/
def afterFin (s : State) : State := gotoEnd 0 s

/-- `while RBITS < TBITS: GETB ; WALK1`, then WFIN (R102, R107, R222; the test is R222's,
notes/assumptions/17.md). -/
def walkLoop (s : State) : State :=
  if s.work.rbits.toNat < s.work.tbits.toNat then s.setPhase 0x1D else s.setPhase 0x21

/-- After WBEG: without a tree the command ends empty, with one the walk begins (R107, R217). -/
def afterWbeg (s : State) : State :=
  if s.work.root = Config.nil then gotoEnd 2 s else walkLoop s

/-- After GETB (R107, R222). -/
def afterGetb (s : State) : State := s.setPhase 0x1E

/-- After WALK1 (R107, R222). -/
def afterWalk1 (s : State) : State := walkLoop s

/-- After WFIN (R102, R107). -/
def afterWfin (s : State) : State := gotoEnd 0 s

end Sys2Proof.Machine
end

