-- ==== Sys2Proof/Machine/CodeTable.lean ====
section
/-! DEFINITION. The code table generator: CGEN (spec/43_code_table.md). -/

namespace Sys2Proof.Machine

/-- `visit(i, path)` (R157), where `room` is `255 - len(path)`: the guard fires at an Internal node whose path has
255 bits. Left (0) before right (1), depth first. -/
def visit (room : Nat) (i : NodeIx) (path : BitString) (s : State) : Res Unit :=
  match s.work.nodeAt i with
  | none => .stop .nilNode
  | some nd =>
    match nd.tag with
    | .leaf => putWork (s.work.setCode nd.sym path) s
    | .internal =>
      match room with
      | 0 => .raise .guardCode s
      | room + 1 =>
        (visit room nd.left (path ++ [0]) s).bind fun _ s1 => visit room nd.right (path ++ [1]) s1

/-- CGEN, derive the CodeTable from the tree (R157); a single-leaf tree takes the one-bit code (R158). -/
def cgen (s : State) : Res Unit :=
  (getNode s.work.root s).bind fun nd s1 =>
  match nd.tag with
  | .leaf => putWork (s1.work.setCode nd.sym Config.singleCode) s1
  | .internal => visit Config.maxClen s1.work.root [] s1

/-- CGEN (R157). -/
def execCgen (s : State) : Host.Outcome State Fault Refusal := settle 0x17 (cgen s) afterCgen

end Sys2Proof.Machine
end

