-- ==== Sys2Proof/Machine/Commands.lean ====
section
/-! DEFINITION. The commands and the frequency table: ENCODE, DECODE, CLR, FACC, END (spec/40_commands.md). -/

namespace Sys2Proof.Machine

/-- Command issue (R100): OP takes the command's opcode; the two prechecks raise with STAGE = the command's opcode,
before CLR, so that OUT keeps its bytes (notes/assumptions/13.md); then the command's microprogram begins with CLR
(R107; one step for each micro-operation, notes/assumptions/12.md). -/
def issue (c : Byte) (s : State) : Host.Outcome State Fault Refusal :=
  let s1 := { s with op := c }
  if s.inOk = 0 then .next (abort .ioNotOk c s1)
  else if s.maxInLen.val < s.inLen.toNat then .next (abort .ioTooLong c s1)
  else .next (s1.setPhase 0x10)

/-- ENCODE (R101): its issue starts the microprogram CLR, FSCAN, BUILD, CGEN, HSER, PAYLOAD, FIN, END that the
sequencer runs. -/
def execEncode (s : State) : Host.Outcome State Fault Refusal := issue 0x01 s

/-- DECODE (R102): its issue starts the microprogram CLR, HPAR, BUILD, WBEG, WALK, WFIN, END that the sequencer
runs. -/
def execDecode (s : State) : Host.Outcome State Fault Refusal := issue 0x02 s

/-- The working state CLR leaves (R103): the registers it lists are fresh, the others keep what they hold. -/
def clearWork (w : Work) : Work :=
  { w with
    freq := Vector.replicate 256 0
    code := Vector.replicate 256 none
    nnodes := 0
    hsize := 0
    heap := []
    root := Config.nil
    acc := 0
    held := 0
    wbits := 0
    rbits := 0 }

/-- CLR, make working state fresh (R103). -/
def clr (s : State) : Res Unit := .ok () { s.setWork (clearWork s.work) with outLen := 0 }

/-- CLR (R103). -/
def execClr (s : State) : Host.Outcome State Fault Refusal := settle 0x10 (clr s) afterClr

/-- FACC, count one input byte (R104). -/
def facc (s : State) : Res Unit :=
  (getIn s.work.iptr.toNat s).bind fun b s1 =>
  (store .freq 64 ((s1.work.freqAt b).toNat + 1) s1).bind fun v s2 =>
  putWork (s2.work.setFreq b v) s2

/-- FACC (R104). -/
def execFacc (s : State) : Host.Outcome State Fault Refusal := settle 0x11 (facc s) afterFacc

/-- END, complete the command (R106). Its operand is the cause the sequencer entered it with. -/
def execEndCmd (s : State) : Host.Outcome State Fault Refusal := .next (complete s.endArg s)

end Sys2Proof.Machine
end

