-- ==== Sys2Proof/Machine/Container.lean ====
section
/-! DEFINITION. The container format: HSER and HPAR (spec/45_container.md). -/

namespace Sys2Proof.Machine

/-- `valid_bits_in_last_byte` of a payload of `total` bits, `((total - 1) mod 8) + 1` (R178, R194), written with a
free value where total is 0, for which `total - 1` is no non-negative integer (R12; notes/assumptions/8.md). -/
def validBits (s : State) : Res (BitVec 8) :=
  if s.work.tbits = 0 then .ok (Config.freeBits .vbits 8 s.draws 0) s.countDraw
  else .ok (BitVec.ofNat 8 ((s.work.tbits.toNat - 1) % 8 + 1)) s

/-- The three registers HSER computes before it writes the header (R191 to R194). -/
def headerRegs (s : State) : Res Unit :=
  (putWork (s.work.setScount (BitVec.ofNat 32 (distinctSymbols s.work))) s).bind fun _ s1 =>
  (store .tbits 64 (bitSum s1.work) s1).bind fun tbits s2 =>
  (putWork (s2.work.setTbits tbits) s2).bind fun _ s3 =>
  (validBits s3).bind fun vbits s4 =>
  putWork (s4.work.setVbits vbits) s4

/-- One turn of HSER's loop over the Symbols: the pair of a Symbol with nonzero frequency (R191, R192). The loop
writes no entry of FREQ, so the rows are those of its beginning. -/
def putPair (row : Byte × Word) (s : State) : Res Unit :=
  if row.2 = 0 then .ok () s
  else (putOut row.1 s).bind fun _ s1 => putOutN 8 row.2.toNat s1

/-- HSER, serialize the header (R191). SCAN is left at 256, the end of its range (R24; notes/assumptions/10.md). -/
def hser (s : State) : Res Unit :=
  (headerRegs s).bind fun _ s1 =>
  (putOutN 4 s1.work.scount.toNat s1).bind fun _ s2 =>
  (forEach s2.work.freqRows putPair s2).bind fun _ s3 =>
  (putOut s3.work.vbits s3).bind fun _ s4 =>
  (putOutN 8 s4.work.tbits.toNat s4).bind fun _ s5 =>
  putWork (s5.work.setScan 256) s5

/-- HSER (R191). -/
def execHser (s : State) : Host.Outcome State Fault Refusal := settle 0x18 (hser s) afterHser

/-- One turn of HPAR's loop over the pairs (R196, R198): the k-th pair is a table write. -/
def getPair (k : Nat) (s : State) : Res Unit :=
  (getIn (4 + 9 * k) s).bind fun b s1 =>
  (memReadIn 8 (5 + 9 * k) s1).bind fun v s2 =>
  putWork (s2.work.setFreq b (BitVec.ofNat 64 v)) s2

/-- The payload bits `P` payload bytes can supply (R199). -/
def availBits (p vbits : Nat) : Nat := if p = 0 then 0 else 8 * (p - 1) + vbits

/-- HPAR's checks of `valid_bits_in_last_byte` and `total_bit_count`, behind `n` pairs (R196, R199, R200). -/
def parseBits (n : Nat) (s : State) : Res Unit :=
  (getIn (4 + 9 * n) s).bind fun vbits s1 =>
  (putWork (s1.work.setVbits vbits) s1).bind fun _ s2 =>
  if vbits.toNat < 1 ∨ 8 < vbits.toNat then .raise .malValid s2
  else
    (memReadIn 8 (5 + 9 * n) s2).bind fun tbits s3 =>
    (putWork ((s3.work.setTbits (BitVec.ofNat 64 tbits)).setPbase (BitVec.ofNat 64 (Config.hdrLen n))) s3).bind
      fun _ s4 =>
    if availBits (s4.inLen.toNat - Config.hdrLen n) vbits.toNat < tbits then .raise .malTotal s4 else .ok () s4

/-- HPAR's pairs and what follows them, after the count `n` is known to be legal (R196, R201, R204). -/
def parsePairs (n : Nat) (s : State) : Res Unit :=
  if s.inLen.toNat < Config.hdrLen n then .raise .truncPairs s
  else
    (forEach (List.range n) getPair s).bind fun _ s1 =>
    if 2 ^ 64 ≤ freqSum s1.work then .raise .malSum s1 else parseBits n s1

/-- HPAR, parse and check the header (R196); `symbol_count` is read as a signed value (R197). -/
def hpar (s : State) : Res Unit :=
  if s.inLen.toNat < 4 then .raise .truncCount s
  else
    (memReadIn 4 0 s).bind fun v s1 =>
    (putWork (s1.work.setScount (BitVec.ofNat 32 v)) s1).bind fun _ s2 =>
    if s2.work.scount.toInt < 0 ∨ 256 < s2.work.scount.toInt then .raise .malCount s2
    else parsePairs s2.work.scount.toNat s2

/-- HPAR (R196). -/
def execHpar (s : State) : Host.Outcome State Fault Refusal := settle 0x1C (hpar s) afterHpar

end Sys2Proof.Machine
end

