-- ==== Sys2Proof/Machine/Reader.lean ====
section
/-! DEFINITION. The bitstream reader: GETB, WBEG, WALK1, WFIN (spec/46_decode_walk.md). -/

namespace Sys2Proof.Machine

/-- Bit k of a payload byte, most significant bit first: bit `7 - (k mod 8)` (R56, R216). -/
def payloadBit (y : Byte) (k : Nat) : Bit := BitVec.ofNat 1 (y.toNat / 2 ^ (7 - k % 8) % 2)

/-- GETB, fetch the next payload bit (R216). -/
def getb (s : State) : Res Unit :=
  (getIn (s.work.pbase.toNat + s.work.rbits.toNat / 8) s).bind fun y s1 =>
  (store .rbits 64 (s.work.rbits.toNat + 1) s1).bind fun rbits s2 =>
  putWork (s2.work.setBit (payloadBit y s.work.rbits.toNat) rbits) s2

/-- GETB (R216). -/
def execGetb (s : State) : Host.Outcome State Fault Refusal := settle 0x1D (getb s) afterGetb

/-- WBEG, begin the walk (R217). Where there is no tree and nothing to decode, the sequencer goes on to END(2)
(R107). -/
def wbeg (s : State) : Res Unit :=
  if s.work.root = Config.nil then
    if s.work.tbits = 0 then .ok () s else .raise .malNoTree s
  else putWork (s.work.setCursor s.work.root) s

/-- WBEG (R217). -/
def execWbeg (s : State) : Host.Outcome State Fault Refusal := settle 0x20 (wbeg s) afterWbeg

/-- The child of a node on an edge: left on bit 0, right on bit 1 (R218). -/
def Node.child (nd : Node) (b : Bit) : NodeIx := if b = 0 then nd.left else nd.right

/-- CURSOR goes back to the root after a Leaf (R218). -/
def rewind (s : State) : Res Unit := putWork (s.work.setCursor s.work.root) s

/-- The move of WALK1 below an Internal root (R218). -/
def walkEdge (s : State) : Res Unit :=
  (getNode s.work.cursor s).bind fun here s1 =>
  (putWork (s1.work.setCursor (here.child s1.work.bit)) s1).bind fun _ s2 =>
  (getNode s2.work.cursor s2).bind fun nd s3 =>
  match nd.tag with
  | .internal => .ok () s3
  | .leaf => (putOut nd.sym s3).bind fun _ s4 => rewind s4

/-- WALK1, one step of the walk (R218); with a single-leaf tree every bit emits the root's symbol (R220). -/
def walk1 (s : State) : Res Unit :=
  (getNode s.work.root s).bind fun top s1 =>
  match top.tag with
  | .leaf => putOut top.sym s1
  | .internal => walkEdge s1

/-- WALK1 (R218). -/
def execWalk1 (s : State) : Host.Outcome State Fault Refusal := settle 0x1E (walk1 s) afterWalk1

/-- WFIN, end the walk (R221). -/
def wfin (s : State) : Res Unit :=
  if s.work.cursor = s.work.root then .ok () s else .raise .malMidCode s

/-- WFIN (R221). -/
def execWfin (s : State) : Host.Outcome State Fault Refusal := settle 0x21 (wfin s) afterWfin

end Sys2Proof.Machine
end

