-- ==== Sys2Proof/Machine/Heap.lean ====
section
/-! DEFINITION. The min-heap: HINS and HEXT (spec/41_heap.md). HEAP is a set of node indices (R32); its layout in
an implementation's storage is no state (R35, R124). -/

namespace Sys2Proof.Machine

/-- `NW[i]` for an index in the arena; only called where no index is NIL. -/
def Work.weightAt (w : Work) (i : NodeIx) : Nat :=
  match w.nodeAt i with
  | some nd => nd.weight.toNat
  | none => 0

/-- `key(i)` is before `key(j)`: the smaller weight, or the smaller index among equal weights (R121). -/
def Work.keyLt (w : Work) (i j : NodeIx) : Bool :=
  decide (w.weightAt i < w.weightAt j) || (decide (w.weightAt i = w.weightAt j) && decide (i.toNat < j.toNat))

/-- The set HEAP with `i` added, as a list in rising order with no repeats. -/
def heapAdd (i : NodeIx) : List NodeIx → List NodeIx
  | [] => [i]
  | j :: rest =>
    if i.toNat < j.toNat then i :: j :: rest
    else if i = j then j :: rest
    else j :: heapAdd i rest

/-- The member of a set whose key is least (R123), or none of an empty set. -/
def leastOf (w : Work) : List NodeIx → Option NodeIx
  | [] => none
  | i :: rest =>
    match leastOf w rest with
    | none => some i
    | some j => if w.keyLt j i then some j else some i

/-- `HINS(i)`, heap insert (R122). -/
def heapInsert (i : NodeIx) (s : State) : Res Unit :=
  if Config.heapCap ≤ s.work.hsize.toNat then .raise .guardHeap s
  else putWork (s.work.setHeap (heapAdd i s.work.heap) (s.work.hsize + 1)) s

/-- `HEXT -> i`, heap extractMin (R123). The error is that of a call on an empty heap: no entry is counted, or none
is there (notes/assumptions/9.md). -/
def heapExtract (s : State) : Res NodeIx :=
  if s.work.hsize = 0 then .raise .emptyHeap s
  else if s.work.heap.contains Config.nil then .stop .nilNode
  else
    match leastOf s.work s.work.heap with
    | none => .raise .emptyHeap s
    | some i => .ok i (s.setWork (s.work.setHeap (s.work.heap.erase i) (s.work.hsize - 1)))

/-- HINS run by itself (R122): its operand is the latch hArg, PHASE does not change (R23), and a raise reports the
micro-operation in PHASE (R246). -/
def execHins (s : State) : Host.Outcome State Fault Refusal :=
  settle s.phase (heapInsert s.hArg s) fun s1 => s1

/-- HEXT run by itself (R123): its result goes to the latch hArg. -/
def execHext (s : State) : Host.Outcome State Fault Refusal :=
  settle s.phase ((heapExtract s).bind fun i s1 => .ok () { s1 with hArg := i }) fun s1 => s1

end Sys2Proof.Machine
end

