-- ==== Sys2Proof/Machine/Tree.lean ====
section
/-! DEFINITION. The Huffman tree builder: LEAF, MERGE, ROOT (spec/42_tree_builder.md). -/

namespace Sys2Proof.Machine

/-- `Leaf{symbol, weight}` (R30, R136). -/
def leafNode (b : Byte) (weight : Word) : Node := ⟨.leaf, b, weight, Config.nil, Config.nil⟩

/-- `Internal{weight, left, right}` (R30, R141). -/
def internalNode (weight : Word) (left right : NodeIx) : Node := ⟨.internal, 0, weight, left, right⟩

/-- The index of the next node: NNODES (R137). -/
def nextIx (s : State) : NodeIx := s.work.nnodes.setWidth 9

/-- Create the next node and insert it: the guard on the arena, the entry at index NNODES, NNODES + 1, and HINS
(R136, R137, R141). -/
def addNode (nd : Node) (s : State) : Res Unit :=
  if Config.nodeCap ≤ s.work.nnodes.toNat then .raise .guardArena s
  else
    (putWork ((s.work.setNode (nextIx s) nd).setNnodes (s.work.nnodes + 1)) s).bind fun _ s1 =>
    heapInsert (nextIx s) s1

/-- LEAF, create a Leaf and insert it (R136). -/
def leaf (s : State) : Res Unit :=
  (scanSymbol s).bind fun b s1 => addNode (leafNode b (s1.work.freqAt b)) s1

/-- LEAF (R136). -/
def execLeaf (s : State) : Host.Outcome State Fault Refusal := settle 0x12 (leaf s) afterLeaf

/-- MERGE, one merge step (R141): the first node extracted is the left child, the second the right one. -/
def merge (s : State) : Res Unit :=
  (heapExtract s).bind fun a s1 =>
  (heapExtract s1).bind fun b s2 =>
  (store .nodeWeight 64 (s2.work.weightAt a + s2.work.weightAt b) s2).bind fun v s3 =>
  addNode (internalNode v a b) s3

/-- MERGE (R141). -/
def execMerge (s : State) : Host.Outcome State Fault Refusal := settle 0x15 (merge s) afterMerge

/-- ROOT, take the root or the no-tree result (R142). -/
def root (s : State) : Res Unit :=
  if s.work.hsize = 0 then putWork (s.work.setRoot Config.nil) s
  else (heapExtract s).bind fun i s1 => putWork (s1.work.setRoot i) s1

/-- ROOT (R142). -/
def execRoot (s : State) : Host.Outcome State Fault Refusal := settle 0x16 (root s) afterRoot

end Sys2Proof.Machine
end

