-- ==== Sys2Proof/Machine/Writer.lean ====
section
/-! DEFINITION. The bitstream writer: PUSH1, PUSHC, FIN (spec/44_bit_writer.md). -/

namespace Sys2Proof.Machine

/-- ACC with one more bit in its least significant position: `(ACC * 2) mod 256 + b` (R173). -/
def shiftIn (acc : BitVec 8) (b : Bit) : BitVec 8 := BitVec.ofNat 8 (acc.toNat * 2 % 256 + b.toNat)

/-- The writer starts an empty byte: `ACC <- 0 ; HELD <- 0` (R173, R177). -/
def emptyAcc (s : State) : Res Unit := putWork (s.work.setAcc 0 0) s

/-- A full byte goes to OUT (R173). -/
def emitFull (s : State) : Res Unit :=
  if s.work.held = 8 then (putOut s.work.acc s).bind fun _ s1 => emptyAcc s1 else .ok () s

/-- `PUSH1(b)`, push one bit (R173). -/
def pushBit (b : Bit) (s : State) : Res Unit :=
  (store .held 4 (s.work.held.toNat + 1) s).bind fun held s1 =>
  (store .wbits 64 (s.work.wbits.toNat + 1) s1).bind fun wbits s2 =>
  (putWork ((s2.work.setAcc (shiftIn s.work.acc b) held).setWbits wbits) s2).bind fun _ s3 =>
  emitFull s3

/-- PUSH1 run by itself (R173): its operand is the latch bArg, PHASE does not change (R23), and a raise reports the
micro-operation in PHASE (R246). -/
def execPush1 (s : State) : Host.Outcome State Fault Refusal :=
  settle s.phase (pushBit s.bArg s) fun s1 => s1

/-- PUSHC, push the code of one input byte, first path bit first (R176). -/
def pushc (s : State) : Res Unit :=
  (getIn s.work.iptr.toNat s).bind fun b s1 => forEach (s1.work.cbits b) pushBit s1

/-- PUSHC (R176). -/
def execPushc (s : State) : Host.Outcome State Fault Refusal := settle 0x1A (pushc s) afterPushc

/-- The final partial byte: the held bits moved to the most significant positions, `PAD_BIT` = 0 below (R177). With
more than 8 bits held, which no run reaches, the shift has no stated value and the byte is free
(notes/assumptions/8.md). -/
def paddedByte (s : State) : Res Byte :=
  if s.work.held.toNat ≤ 8 then
    .ok (BitVec.ofNat 8 (s.work.acc.toNat * 2 ^ (8 - s.work.held.toNat) % 256)) s
  else .ok (Config.freeBits .padded 8 s.draws 0) s.countDraw

/-- The held bits go to OUT as the last byte, padded (R177). -/
def emitHeld (s : State) : Res Unit :=
  if 0 < s.work.held.toNat then
    (paddedByte s).bind fun b s1 => (putOut b s1).bind fun _ s2 => emptyAcc s2
  else .ok () s

/-- FIN, writer finish (R177). -/
def fin (s : State) : Res Unit :=
  (emitHeld s).bind fun _ s1 =>
  if s1.work.wbits = s1.work.tbits then .ok () s1 else .raise .guardWriter s1

/-- FIN (R177). -/
def execFin (s : State) : Host.Outcome State Fault Refusal := settle 0x1B (fin s) afterFin

end Sys2Proof.Machine
end

