-- ==== Sys2Proof/Syntax.lean ====
section
/-! DEFINITION. The operations of HUFFCORE: one constructor for each row of spec/opcode_table.json
(spec/30_encoding.md R73). No operation carries an operand in its encoding: every operand is implicit
(R70, R71), so no constructor has an argument. -/

namespace Sys2Proof

/-- The twenty operations of R73, in the order of the opcode table. -/
inductive Instr where
  | encode   -- ENCODE, host command (R101)
  | decode   -- DECODE, host command (R102)
  | clr      -- CLR, make working state fresh (R103)
  | facc     -- FACC, count one input byte (R104)
  | leaf     -- LEAF, create a Leaf and insert it (R136)
  | hins     -- HINS, heap insert, subroutine only (R122)
  | hext     -- HEXT, heap extractMin, subroutine only (R123)
  | merge    -- MERGE, one merge step (R141)
  | root     -- ROOT, take the root or the no-tree result (R142)
  | cgen     -- CGEN, derive the CodeTable (R157)
  | hser     -- HSER, serialize the header (R191)
  | push1    -- PUSH1, push one bit, subroutine only (R173)
  | pushc    -- PUSHC, push the code of one input byte (R176)
  | fin      -- FIN, writer finish (R177)
  | hpar     -- HPAR, parse and check the header (R196)
  | getb     -- GETB, fetch the next payload bit (R216)
  | walk1    -- WALK1, one step of the walk (R218)
  | endCmd   -- END, complete the command (R106)
  | wbeg     -- WBEG, begin the walk (R217)
  | wfin     -- WFIN, end the walk (R221)
  deriving DecidableEq, Repr

/-- The class column of R73 and of the opcode table: H, U and U-sub (R72). -/
inductive OpClass where
  | host         -- class H: a host command, written to CMD
  | micro        -- class U: held in PHASE while it runs
  | subroutine   -- class U, subroutine only: entered by a call, never in PHASE
  deriving DecidableEq, Repr

/-- Where the sequencer finds the opcode it runs next. -/
inductive Port where
  | cmd     -- a value the host wrote to CMD (R26)
  | phase   -- the PHASE register (R23)
  | call    -- a subroutine call (R15, R23)
  deriving DecidableEq, Repr

end Sys2Proof
end

