-- ==== Sys2Proof/Machine/Dispatch.lean ====
section
/-! DEFINITION. One arm for each operation of the opcode table (R73). -/

namespace Sys2Proof.Machine

def exec (i : Instr) (s : State) : Host.Outcome State Fault Refusal :=
  match i with
  | .encode => Sys2Proof.Machine.execEncode s
  | .decode => Sys2Proof.Machine.execDecode s
  | .clr => Sys2Proof.Machine.execClr s
  | .facc => Sys2Proof.Machine.execFacc s
  | .leaf => Sys2Proof.Machine.execLeaf s
  | .hins => Sys2Proof.Machine.execHins s
  | .hext => Sys2Proof.Machine.execHext s
  | .merge => Sys2Proof.Machine.execMerge s
  | .root => Sys2Proof.Machine.execRoot s
  | .cgen => Sys2Proof.Machine.execCgen s
  | .hser => Sys2Proof.Machine.execHser s
  | .push1 => Sys2Proof.Machine.execPush1 s
  | .pushc => Sys2Proof.Machine.execPushc s
  | .fin => Sys2Proof.Machine.execFin s
  | .hpar => Sys2Proof.Machine.execHpar s
  | .getb => Sys2Proof.Machine.execGetb s
  | .walk1 => Sys2Proof.Machine.execWalk1 s
  | .endCmd => Sys2Proof.Machine.execEndCmd s
  | .wbeg => Sys2Proof.Machine.execWbeg s
  | .wfin => Sys2Proof.Machine.execWfin s

end Sys2Proof.Machine
end

