-- ==== Sys2Proof/WellFormed.lean ====
section
/-! DEFINITION. Which operation may stand at which port. An operation has no operand fields (R70), so an
`Instr` alone is always well formed; what the spec restricts is WHERE an opcode may stand: class H in CMD,
class U in PHASE, the three subroutine-only operations only as the target of a call (R23, R72, R76). -/

namespace Sys2Proof

/-- The class of each operation (R72, R73; the class column of spec/opcode_table.json). -/
def Instr.opClass : Instr → OpClass
  | .encode => .host
  | .decode => .host
  | .hins => .subroutine
  | .hext => .subroutine
  | .push1 => .subroutine
  | .clr => .micro
  | .facc => .micro
  | .leaf => .micro
  | .merge => .micro
  | .root => .micro
  | .cgen => .micro
  | .hser => .micro
  | .pushc => .micro
  | .fin => .micro
  | .hpar => .micro
  | .getb => .micro
  | .walk1 => .micro
  | .endCmd => .micro
  | .wbeg => .micro
  | .wfin => .micro

/-- The class a port accepts: only class H may be written to CMD; HINS, HEXT and PUSH1 never appear in
PHASE and are entered only by a call (R23, R72). -/
def Port.accepts : Port → OpClass
  | .cmd => .host
  | .phase => .micro
  | .call => .subroutine

/-- The operation may stand at this port. -/
def Instr.wellFormedAt (i : Instr) (p : Port) : Bool :=
  decide (i.opClass = p.accepts)

end Sys2Proof
end

