-- ==== Sys2Proof/Decode.lean ====
section
/-! DEFINITION. The operation codes: one 8-bit format, `OP8`, fixed length, no fields (R70, R73, R77).
The decoder is total on byte lists and rejects by name; the encoder is written from the same map. -/

namespace Sys2Proof

/-- Why a byte list is no operation. -/
inductive DecodeError where
  | noByte               -- there is no byte to read
  | reserved (b : Byte)  -- the byte is outside the opcode map of R73 (R76)
  deriving DecidableEq, Repr

/-- The opcode map of R73, read from the opcode. The value 0x00 is IDLE, which is not an operation. -/
def opcodeMap : List (Byte × Instr) :=
  [(0x01, .encode), (0x02, .decode),
   (0x10, .clr), (0x11, .facc), (0x12, .leaf), (0x13, .hins),
   (0x14, .hext), (0x15, .merge), (0x16, .root), (0x17, .cgen)] ++
  [(0x18, .hser), (0x19, .push1), (0x1A, .pushc), (0x1B, .fin),
   (0x1C, .hpar), (0x1D, .getb), (0x1E, .walk1), (0x1F, .endCmd),
   (0x20, .wbeg), (0x21, .wfin)]

/-- The operation whose opcode is `b`, if any. -/
def decodeByte (b : Byte) : Option Instr :=
  (opcodeMap.find? fun row => row.1 == b).map Prod.snd

/-- Read one operation from the front of a byte list and give the rest back (R77: no prefixes, no mode
bits, one byte). -/
def decode : List Byte → Except DecodeError (Instr × List Byte)
  | [] => .error .noByte
  | b :: rest =>
    match decodeByte b with
    | some i => .ok (i, rest)
    | none => .error (.reserved b)

/-- The opcode of each operation (R73). -/
def opcode : Instr → Byte
  | .encode => 0x01
  | .decode => 0x02
  | .clr => 0x10
  | .facc => 0x11
  | .leaf => 0x12
  | .hins => 0x13
  | .hext => 0x14
  | .merge => 0x15
  | .root => 0x16
  | .cgen => 0x17
  | .hser => 0x18
  | .push1 => 0x19
  | .pushc => 0x1A
  | .fin => 0x1B
  | .hpar => 0x1C
  | .getb => 0x1D
  | .walk1 => 0x1E
  | .endCmd => 0x1F
  | .wbeg => 0x20
  | .wfin => 0x21

/-- The words of an operation: its opcode byte and nothing else (R70). -/
def encode (i : Instr) : List Byte := [opcode i]

/-- `IDLE`, the PHASE value when no command runs; not an operation (R73). -/
abbrev idleCode : Byte := 0x00

/-- What the decoder reads from an opcode-table word: bit 0 of `w` is the least significant bit of the
opcode byte, every bit above `nbits` is 0. A word that does not fit the fixed 8-bit length is no operation
(R77). -/
def decodeTableWord (nbits w : Nat) : Option Instr :=
  let v := w % 2 ^ nbits
  if v < 256 then
    match decode [BitVec.ofNat 8 v] with
    | .ok (i, _) => some i
    | .error _ => none
  else none

end Sys2Proof
end

