-- ==== Sys2Proof/Machine/Fetch.lean ====
section
/-! DEFINITION. Where the sequencer finds the opcode it runs next. HUFFCORE fetches nothing from memory (R66): the
opcode stands in PHASE while a command runs, in CMD where the host has issued one (R23, R26, R70), or it is the target
of a call. -/

namespace Sys2Proof.Machine

/-- The next opcode and the port it stands at: a call first (R15), then PHASE unless it is IDLE (R23), then a value
written to CMD (R26); none where HUFFCORE is idle (R38). -/
def fetch (s : State) : Option (Port × Byte) :=
  match s.sub with
  | some b => some (.call, b)
  | none =>
    if s.phase = idleCode then
      match s.cmd with
      | some c => some (.cmd, c)
      | none => none
    else some (.phase, s.phase)

/-- Take the opcode from its port: CMD and the call slot are emptied; PHASE keeps the opcode while it runs (R23). -/
def consume (p : Port) (s : State) : State :=
  match p with
  | .call => { s with sub := none }
  | .cmd => { s with cmd := none }
  | .phase => s

/-- Why an opcode may not run from its port (R23, R76). -/
def portRefusal (p : Port) (b : Byte) : Refusal :=
  match p with
  | .cmd => .reservedCommand b.toNat
  | .phase => .illegalPhase b
  | .call => .illegalCall b

/-- The command whose microprogram runs `i` (R101, R102): an operation of both keeps the running one. -/
def homeCommand (i : Instr) (op : Byte) : Byte :=
  match i with
  | .hpar | .getb | .walk1 | .wbeg | .wfin => 0x02
  | .facc | .cgen | .hser | .pushc | .push1 | .fin => 0x01
  | .encode => 0x01
  | .decode => 0x02
  | .clr | .leaf | .hins | .hext | .merge | .root | .endCmd => if op = 0x02 then 0x02 else 0x01

/-- Put the operation `i` where the next step fetches it: a command as a value the host wrote to CMD with HUFFCORE
idle; a micro-operation in PHASE, with OP a command that runs it (R72); a subroutine-only operation in the call slot
(notes/assumptions/5.md). -/
def place (i : Instr) (s : State) : State :=
  match i.opClass with
  | .host => { s with sub := none, phase := idleCode, op := 0x00, cmd := some (opcode i) }
  | .micro => { s with sub := none, phase := opcode i, op := homeCommand i s.op }
  | .subroutine => { s with sub := some (opcode i) }

/-- Put a byte that is no operation where the host would write it, so that the next step refuses it (R76). -/
def placeReserved (b : Byte) (s : State) : State :=
  { s with sub := none, phase := idleCode, op := 0x00, cmd := some b }

end Sys2Proof.Machine
end

