-- ==== Sys2Proof/Machine/HostPort.lean ====
section
/-! DEFINITION. The host interface: the register window (R26 to R28), the two buffers (R34, R39, R51, R52) and the
platform reset (R265). The host acts only between commands (R19, R68): the step takes a host move only when no
command runs. -/

namespace Sys2Proof.Machine

/-- The registers of the window (R28). -/
inductive HostReg where
  | cmd | status | inLen | outLen | outCap | inOk
  deriving DecidableEq, Repr

/-- The register at a byte offset of the window; every other offset is reserved (R28). -/
def hostRegAt (off : Nat) : Option HostReg :=
  match off with
  | 0x00 => some .cmd
  | 0x04 => some .status
  | 0x08 => some .inLen
  | 0x10 => some .outLen
  | 0x18 => some .outCap
  | 0x20 => some .inOk
  | _ => none

/-- A host read of a register (R25, R27, R28): STATUS, OUT_LEN and the host's own arguments. A read of CMD and of a
reserved offset has no meaning (R26, U7). IN_OK is bit 0 and bits 31:1 read 0. -/
def hostRegRead (off : Nat) (s : State) : Host.Outcome State Fault Refusal :=
  match hostRegAt off with
  | some .status => .next { s with hostData := s.status.setWidth 64 }
  | some .inLen => .next { s with hostData := s.inLen }
  | some .outLen => .next { s with hostData := s.outLen }
  | some .outCap => .next { s with hostData := s.outCap }
  | some .inOk => .next { s with hostData := s.inOk.setWidth 64 }
  | some .cmd => .refused (.hostAccess off)
  | none => .refused (.hostAccess off)

/-- A host write of a register (R26 to R28). STATUS and OUT_LEN are read-only and a reserved offset has no meaning
(U7). IN_OK takes bit 0. A write of CMD hands its value to the sequencer; a value that is no byte is reserved
(R76). DESIGN CHOICE: one access is one whole register at its own offset (notes/assumptions/15.md). -/
def hostRegWrite (off : Nat) (v : Word) (s : State) : Host.Outcome State Fault Refusal :=
  match hostRegAt off with
  | some .cmd =>
    if v.toNat < 256 then .next { s with cmd := some (v.setWidth 8) } else .refused (.reservedCommand v.toNat)
  | some .inLen => .next { s with inLen := v }
  | some .outCap => .next { s with outCap := v }
  | some .inOk => .next { s with inOk := v.setWidth 1 }
  | some .status => .refused (.hostAccess off)
  | some .outLen => .refused (.hostAccess off)
  | none => .refused (.hostAccess off)

/-- What a host read of `OUT[a]` returns: the byte of the output where `a < OUT_LEN` (R39, R52); any value elsewhere
(U5), a free one. -/
def outByte (a : Nat) (s : State) : Byte × State :=
  match (if a < s.outLen.toNat then s.outBuf.read a else none) with
  | some b => (b, s)
  | none => (Config.freeBits .outByte 8 s.draws a, s.countDraw)

/-- The platform reset: the state takes the values of R37 and HUFFCORE is idle (R265). The host's moves still to
come are the host's, not HUFFCORE's, and stay; so does the count of drawn values. DESIGN CHOICE
(notes/assumptions/14.md). MAX_IN_LEN is fixed for the instance (R36). -/
def platformReset (s : State) : State :=
  { State.reset with maxInLen := s.maxInLen, hostQ := s.hostQ, draws := s.draws }

/-- One move of the host. -/
def hostAccess (a : HostAct) (s : State) : Host.Outcome State Fault Refusal :=
  match a with
  | .regWrite off v => hostRegWrite off v s
  | .regRead off => hostRegRead off s
  | .inWrite a b => .next { s with inBuf := s.inBuf.write a.toNat b }
  | .outRead a =>
    match outByte a.toNat s with
    | (b, s1) => .next { s1 with hostData := b.setWidth 64 }
  | .reset => .next (platformReset s)

/-- No command runs and none is waiting: the next move of the host is taken; where the host makes none, HUFFCORE
stays idle (R38). -/
def idleStep (s : State) : Host.Outcome State Fault Refusal :=
  match s.hostQ with
  | [] => .next s
  | a :: rest => hostAccess a { s with hostQ := rest }

end Sys2Proof.Machine
end

