-- ==== Sys2Proof/Machine/Step.lean ====
section
/-! DEFINITION. One step of HUFFCORE: the operation the sequencer holds, or, with no command running, one move of
the host (R19, R23, R38, R107). -/

namespace Sys2Proof.Machine

/-- One step. It has no duration: the spec gives no timing (R278; notes/assumptions/21.md). -/
def step (s : State) : Host.Outcome State Fault Refusal :=
  match fetch s with
  | none => idleStep s
  | some (p, b) =>
    match Sys2Proof.decode [b] with
    | .error _ => .refused (portRefusal p b)
    | .ok (i, _) => if i.wellFormedAt p then exec i (consume p s) else .refused (portRefusal p b)

/-- The state `s` with the operation whose opcode-table bits are `w` placed where the next step fetches it
(notes/assumptions/11.md). -/
def State.withFetchWord (s : State) (nbits w : Nat) : State :=
  match Sys2Proof.decodeTableWord nbits w with
  | some i => place i s
  | none => placeReserved (BitVec.ofNat 8 (w % 2 ^ nbits)) s

end Sys2Proof.Machine
end

