-- ==== Sys2Proof/Reference.lean ====
section
/-! DEFINITION. The words in which statements about results are made: byte strings of the artifact (R80), the values a
header in IN declares (R196), paths in the node arena (R156) and the bits a writer has taken in (R170, R171). None of
these is used by the machine. -/

namespace Sys2Proof.Reference

open Sys2Proof.Machine

/-! ### The artifact's header -/

/-- `n` bytes of `v`, least significant first (R14, R55). -/
def leBytes (n v : Nat) : List Byte :=
  match n with
  | 0 => []
  | n + 1 => BitVec.ofNat 8 (v % 256) :: leBytes n (v / 256)

/-- The pairs of a frequency table: one for each Symbol with nonzero frequency, ascending (R82, R192). -/
def pairBytes (freq : Byte → Nat) : List Byte :=
  (symbols.filter fun b => freq b != 0).flatMap fun b => b :: leBytes 8 (freq b)

/-- The number of Symbols with nonzero frequency. -/
def distinct (freq : Byte → Nat) : Nat := (symbols.filter fun b => freq b != 0).length

/-- The header of R80 for a frequency table and a total bit count of at least 1: count, pairs,
`valid_bits_in_last_byte` (R83) and `total_bit_count`. -/
def headerBytes (freq : Byte → Nat) (total : Nat) : List Byte :=
  leBytes 4 (distinct freq) ++ pairBytes freq ++ [BitVec.ofNat 8 ((total - 1) % 8 + 1)] ++ leBytes 8 total

/-- The number of offsets below `IN_LEN` that hold the Symbol `b` (R105). -/
def countIn (s : State) (b : Byte) : Nat :=
  ((List.range s.inLen.toNat).filter fun a => s.inBuf.read a == some b).length

/-! ### What a header in IN declares -/

/-- The byte at an offset of IN, for offsets the host has filled. -/
def inByte (s : State) (a : Nat) : Byte := (s.inBuf.read a).getD 0

/-- The little-endian value of `n` bytes of IN from offset `a` (R14, R55). -/
def inNat (s : State) (a n : Nat) : Nat :=
  match n with
  | 0 => 0
  | n + 1 => (inByte s a).toNat + 256 * inNat s (a + 1) n

/-- `symbol_count`, read as a two's-complement signed value (R81, R197). -/
def declaredCount (s : State) : Int := (BitVec.ofNat 32 (inNat s 0 4)).toInt

/-- The frequency of a Symbol after the first `n` pairs are written in order: the last pair of a Symbol wins (R198). -/
def declaredFreq (s : State) (n : Nat) (b : Byte) : Nat :=
  match n with
  | 0 => (s.work.freqAt b).toNat
  | n + 1 => if inByte s (4 + 9 * n) = b then inNat s (5 + 9 * n) 8 else declaredFreq s n b

/-- The sum of the declared frequencies (R201). -/
def declaredSum (s : State) (n : Nat) : Nat := (symbols.map fun b => declaredFreq s n b).sum

/-! ### Paths in the node arena -/

/-- The node reached from node `i` by a path: 0 goes left, 1 goes right, and only from an Internal node (R156). -/
def follow (w : Work) (i : NodeIx) (path : BitString) : Option NodeIx :=
  match path with
  | [] => if (w.nodeAt i).isSome then some i else none
  | b :: rest =>
    match w.nodeAt i with
    | none => none
    | some nd =>
      match nd.tag with
      | .leaf => none
      | .internal => follow w (nd.child b) rest

/-- The Symbol of the Leaf a path leads to. -/
def leafOn (w : Work) (i : NodeIx) (path : BitString) : Option Byte :=
  match follow w i path with
  | none => none
  | some j =>
    match w.nodeAt j with
    | none => none
    | some nd => if nd.tag = .leaf then some nd.sym else none

/-- The tree below ROOT is one CGEN can visit: no path runs into NIL, and no Internal node lies 255 edges deep
(R31, R159). -/
def Visitable (w : Work) : Prop :=
  ∀ path j nd, follow w w.root path = some j → w.nodeAt j = some nd → nd.tag = .internal →
    path.length < 255 ∧ (w.nodeAt nd.left).isSome = true ∧ (w.nodeAt nd.right).isSome = true

/-- Each Symbol is the `NSYM` of at most one Leaf below ROOT (R31, R147). -/
def LeavesDistinct (w : Work) : Prop :=
  ∀ p q b, leafOn w w.root p = some b → leafOn w w.root q = some b → p = q

/-! ### The bits a writer has taken in -/

/-- The value of a bit string, first bit most significant. -/
def bitsValue (bits : BitString) : Nat := bits.foldl (fun v b => 2 * v + b.toNat) 0

/-- The writer has taken in exactly `bits` since its output began at offset `base` of OUT: the full bytes stand in OUT,
first bit most significant (R56, R175), the rest is held in the low bits of ACC (R171). -/
structure WriterHolds (s : State) (base : Nat) (bits : BitString) : Prop where
  count : s.work.wbits.toNat = bits.length
  held : s.work.held.toNat = bits.length % 8
  appended : s.outLen.toNat = base + bits.length / 8
  full : ∀ k, k < 8 * (bits.length / 8) →
    ∃ y, s.outBuf.read (base + k / 8) = some y ∧ bits[k]? = some (payloadBit y k)
  rest : s.work.acc.toNat = bitsValue (bits.drop (8 * (bits.length / 8)))

end Sys2Proof.Reference
end

