-- ==== Sys2Proof/Safety.lean ====
section
/-! DEFINITION. The terms in which claims about runs are made: what the host must have done before a command (R268),
what a run of a command is, what an abort leaves (R246), and the invariant of the machine. -/

namespace Sys2Proof.Safety

open Sys2Proof.Machine

/-! ### Runs of a command -/

/-- The host has filled IN up to IN_LEN (R51, R268). -/
def Loaded (s : State) : Prop := ∀ a, a < s.inLen.toNat → (s.inBuf.read a).isSome = true

/-- HUFFCORE is idle and the host has written the command `c` to CMD (R100). -/
structure Issued (c : Byte) (s : State) : Prop where
  idle : s.phase = 0x00
  noCall : s.sub = none
  written : s.cmd = some c

/-- Steps until HUFFCORE is idle again, at most `fuel` of them. -/
def runToIdle (fuel : Nat) (s : State) : Host.Outcome State Fault Refusal :=
  match fuel with
  | 0 => .next s
  | fuel + 1 =>
    match step s with
    | .next t => if t.phase = 0x00 then .next t else runToIdle fuel t
    | .fault f => .fault f
    | .refused r => .refused r

/-- A command issued in `s` completes, by END or by the abort sequence, in `t`. -/
def CompletesIn (s t : State) : Prop := ∃ fuel, runToIdle fuel s = .next t ∧ t.phase = 0x00 ∧ 0 < fuel

/-- The host copies the output of `t` to IN for the command of `u`: the same bytes and their number. -/
def CopiesOutput (t u : State) : Prop :=
  u.inLen = t.outLen ∧ ∀ a, a < t.outLen.toNat → u.inBuf.read a = t.outBuf.read a

/-! ### What stays unchanged -/

/-- Everything that belongs to the host or is fixed for the instance: IN, the argument registers, the host's own moves
and MAX_IN_LEN (R27, R36, R51, R69). -/
def SameInputSide (s t : State) : Prop :=
  (∀ a, t.inBuf.read a = s.inBuf.read a) ∧ t.inLen = s.inLen ∧ t.outCap = s.outCap ∧ t.inOk = s.inOk ∧
  t.hostQ = s.hostQ ∧ t.hostData = s.hostData ∧ t.maxInLen = s.maxInLen

/-- OUT and its append pointer. -/
def SameOutput (s t : State) : Prop :=
  t.outLen = s.outLen ∧ ∀ a, t.outBuf.read a = s.outBuf.read a

/-- OUT was only appended to, from `OUT_LEN` of `s` up to `OUT_LEN` of `t`: every other byte reads as before (R52,
R58, R60). -/
def OnlyAppended (s t : State) : Prop :=
  s.outLen.toNat ≤ t.outLen.toNat ∧
  ∀ a, a < s.outLen.toNat ∨ t.outLen.toNat ≤ a → t.outBuf.read a = s.outBuf.read a

/-- STATUS, OP and CMD. -/
def SameControl (s t : State) : Prop := t.status = s.status ∧ t.op = s.op ∧ t.cmd = s.cmd ∧ t.sub = s.sub

/-- The state the abort sequence of R246 leaves: OUT_LEN is 0, STATUS is written whole, HUFFCORE is idle, the input side
is unchanged. The working state and OUT are unspecified. -/
def AbortedTo (s t : State) (e : Raise) (stage : Byte) : Prop :=
  t.outLen = 0 ∧ t.status = abortStatus e stage s.op ∧ t.phase = 0x00 ∧ t.op = 0x00 ∧ SameInputSide s t

/-! ### Where BUILD goes on -/

/-- BUILD's leaf scan has gone on from Symbol `k` (R107, R138, R139): LEAF is next, with SCAN the first Symbol at or
after `k` whose frequency is nonzero; or there is none, and MERGE is next while HSIZE > 1, else ROOT. There SCAN is 256,
the model's reading (notes/assumptions/10.md). -/
def BuildScansFrom (k : Nat) (t : State) : Prop :=
  (∃ b : Byte, k ≤ b.toNat ∧ t.work.freqAt b ≠ 0 ∧
    (∀ b' : Byte, k ≤ b'.toNat → b'.toNat < b.toNat → t.work.freqAt b' = 0) ∧
    t.phase = 0x12 ∧ t.work.scan.toNat = b.toNat) ∨
  ((∀ b : Byte, k ≤ b.toNat → t.work.freqAt b = 0) ∧
    t.phase = (if 1 < t.work.hsize.toNat then 0x15 else 0x16) ∧ t.work.scan = 256)

/-! ### The invariant -/

/-- The values PHASE can hold: IDLE and the class-U opcodes other than the three subroutines (R23, R73). -/
def legalPhases : List Byte :=
  [0x00, 0x10, 0x11, 0x12, 0x15, 0x16, 0x17, 0x18, 0x1A, 0x1B, 0x1C, 0x1D, 0x1E, 0x1F, 0x20, 0x21]

/-- The phases only ENCODE runs (R101). -/
def encodePhases : List Byte := [0x11, 0x17, 0x18, 0x1A, 0x1B]

/-- The phases only DECODE runs (R102). -/
def decodePhases : List Byte := [0x1C, 0x20, 0x1D, 0x1E, 0x21]

/-- The phases of a command, after CLR, in which no byte has been appended yet. -/
def beforeOutput : List Byte := [0x11, 0x12, 0x15, 0x16, 0x17, 0x18, 0x1C, 0x20]

/-- A command runs and CLR is behind it. -/
def cleared (s : State) : Prop := s.phase ≠ 0x00 ∧ s.phase ≠ 0x10

/-- HEAP is a set of nodes in use, HSIZE counts it, and it respects its capacity (R32, R125). -/
def HeapOk (w : Work) : Prop :=
  (w.heap.map BitVec.toNat).Pairwise (· < ·) ∧ w.hsize.toNat = w.heap.length ∧ w.hsize.toNat ≤ 256 ∧
  ∀ i ∈ w.heap, i.toNat < w.nnodes.toNat

/-- The arena respects its size, and a child's index is smaller than its parent's (R31, R148). -/
def ArenaOk (w : Work) : Prop :=
  w.nnodes.toNat ≤ 511 ∧
  ∀ i nd, i.toNat < w.nnodes.toNat → w.nodeAt i = some nd → nd.tag = .internal →
    nd.left.toNat < i.toNat ∧ nd.right.toNat < i.toNat

/-- ROOT is a node in use. -/
def RootInUse (w : Work) : Prop := w.root.toNat < w.nnodes.toNat

/-- CURSOR stands at a node in use that is a Leaf exactly when ROOT is (R218, R220). -/
def CursorOk (w : Work) : Prop :=
  w.cursor.toNat < w.nnodes.toNat ∧
  ∀ a b, w.nodeAt w.cursor = some a → w.nodeAt w.root = some b → a.tag = b.tag

/-- The declared payload bits lie inside IN (R199). -/
def PayloadInside (s : State) : Prop :=
  s.work.pbase.toNat ≤ s.inLen.toNat ∧ s.work.tbits.toNat ≤ 8 * (s.inLen.toNat - s.work.pbase.toNat)

/-- What the operation in PHASE relies on: the preconditions the rules state for it (R104, R136, R141, R142, R157, R176,
R216, R218). -/
structure OperandsOk (s : State) : Prop where
  inputByte : s.phase = 0x11 ∨ s.phase = 0x1A → s.work.iptr.toNat < s.inLen.toNat
  symbol : s.phase = 0x12 → s.work.scan.toNat < 256
  twoEntries : s.phase = 0x15 → 2 ≤ s.work.hsize.toNat
  oneEntry : s.phase = 0x16 → s.work.hsize.toNat ≤ 1
  tree : s.phase ∈ [0x17, 0x18, 0x1A, 0x1B, 0x1D, 0x1E, 0x21] → RootInUse s.work
  noTreeOrTree : s.phase = 0x20 → s.work.root = Config.nil ∨ RootInUse s.work
  cursor : s.phase ∈ [0x1D, 0x1E] → CursorOk s.work
  payload : s.op = 0x02 → s.phase ∈ [0x12, 0x15, 0x16, 0x20, 0x1D, 0x1E, 0x21] → PayloadInside s
  bitLeft : s.phase = 0x1D → s.work.rbits.toNat < s.work.tbits.toNat

/-- The invariant of the machine: every step keeps it. -/
structure Inv (s : State) : Prop where
  inCanonical : s.inBuf.wf = true
  outCanonical : s.outBuf.wf = true
  phaseLegal : s.phase ∈ legalPhases
  noCall : s.sub = none
  idleIffNoOp : s.phase = 0x00 ↔ s.op = 0x00
  opLegal : s.op = 0x00 ∨ s.op = 0x01 ∨ s.op = 0x02
  encodeOnly : s.phase ∈ encodePhases → s.op = 0x01
  decodeOnly : s.phase ∈ decodePhases → s.op = 0x02
  notIssuedTwice : s.phase ≠ 0x00 → s.cmd = none
  lengthChecked : s.phase ≠ 0x00 → s.inLen.toNat ≤ s.maxInLen.val
  statusReserved : statusReservedZero s.status = true
  causeLegal : (statusCause s.status).toNat ≤ 6
  failedNoOutput : s.phase = 0x00 → statusFail s.status = 1 → s.outLen = 0
  emptyNoOutput : s.phase = 0x00 → statusEmpty s.status = 1 → s.outLen = 0
  endCause : s.phase = 0x1F → s.endArg = 0 ∨ s.endArg = 2 ∧ s.outLen = 0
  nothingAppended : s.phase ∈ beforeOutput → s.outLen = 0
  withinCapacity : cleared s → s.outLen.toNat ≤ s.outCap.toNat
  heap : cleared s → HeapOk s.work
  arena : cleared s → ArenaOk s.work
  operands : OperandsOk s

/-- The number of Internal nodes in use. -/
def internalCount (w : Work) : Nat :=
  ((List.range w.nnodes.toNat).filter fun i =>
    match w.node[i]? with
    | some nd => decide (nd.tag = .internal)
    | none => false).length

/-- How far BUILD has come (R125, R140, R148): during the leaf scan every node is a Leaf in HEAP, and at most one for
each Symbol behind SCAN; each MERGE makes one Internal node and lowers HSIZE by one. -/
structure BuildBounds (s : State) : Prop where
  leafScan : s.phase = 0x12 →
    s.work.nnodes.toNat = s.work.hsize.toNat ∧ s.work.hsize.toNat ≤ s.work.scan.toNat ∧ internalCount s.work = 0
  merging : s.phase = 0x15 →
    s.work.nnodes.toNat + s.work.hsize.toNat ≤ 512 ∧
    s.work.nnodes.toNat = s.work.hsize.toNat + 2 * internalCount s.work
  merged : s.phase = 0x16 → s.work.hsize.toNat = 0 ∨ internalCount s.work ≤ 255
  tree : s.phase = 0x17 → internalCount s.work ≤ 255
  fresh : s.phase = 0x11 ∨ s.phase = 0x1C → s.work.nnodes.toNat = 0 ∧ s.work.hsize.toNat = 0

end Sys2Proof.Safety
end

