-- ==== Sys2Proof/Certificates/Slice0/Obligations.lean ====
section
/-! DEFINITION. The statements about HUFFCORE for the provers. Each docstring names the rule of spec/ it rests on. -/

open Sys2Proof Sys2Proof.Machine Sys2Proof.Safety Sys2Proof.Reference

/-! ### Encodings (spec/30_encoding.md) -/

/-- Bytes written out bit by bit from the opcode map of R73 decode to the operations they stand for: one of each
family. -/
def Obligations.OpcodeBytesDecode : Prop :=
  decode [0b00000001] = .ok (.encode, []) ∧ decode [0b00000010] = .ok (.decode, []) ∧
  decode [0b00010001] = .ok (.facc, []) ∧ decode [0b00010100] = .ok (.hext, []) ∧
  decode [0b00010101] = .ok (.merge, []) ∧ decode [0b00010111] = .ok (.cgen, []) ∧
  decode [0b00011010] = .ok (.pushc, []) ∧ decode [0b00011100] = .ok (.hpar, []) ∧
  decode [0b00011110] = .ok (.walk1, []) ∧ decode [0b00100001] = .ok (.wfin, []) ∧
  decode [0b00000000] = .error (.reserved 0x00)

/-- R70, R77: one byte, no prefixes, no mode bits: the decoder reads an operation from a byte list exactly where the list
begins with that operation's encoding, and gives the rest back. -/
def Obligations.DecodeExactlyEncodings : Prop :=
  ∀ (bytes rest : List Byte) (i : Instr), decode bytes = .ok (i, rest) ↔ bytes = encode i ++ rest

/-- R80, R196 to R201: what HSER writes, HPAR reads back: with the header's bytes in IN and the payload bytes it
announces behind them, HPAR completes and restores SCOUNT, FREQ, VBITS and TBITS, and PBASE is the header's length. -/
def Obligations.HeaderParsesBack : Prop :=
  ∀ s t u : State,
    s.outLen = 0 → 1 ≤ bitSum s.work → bitSum s.work < 2 ^ 64 → freqSum s.work < 2 ^ 64 →
    exec .hser s = .next t → t.phase ≠ 0x00 →
    (∀ a, a < t.outLen.toNat → u.inBuf.read a = t.outBuf.read a) → Loaded u →
    u.inLen.toNat = t.outLen.toNat + (bitSum s.work + 7) / 8 →
    (∀ b, u.work.freqAt b = 0) →
    ∃ v, exec .hpar u = .next v ∧ v.phase ≠ 0x00 ∧
      v.work.scount = t.work.scount ∧ (∀ b, v.work.freqAt b = s.work.freqAt b) ∧
      v.work.vbits = t.work.vbits ∧ v.work.tbits = t.work.tbits ∧ v.work.pbase.toNat = t.outLen.toNat

/-! ### Reset and the step (spec/10_state.md, spec/40_commands.md) -/

/-- R37, R38: the control and status registers are 0, PHASE is IDLE and OP is 0 after reset, and HUFFCORE stays idle.
R11: the instance State.reset belongs to has the default MAX_IN_LEN, 2^32 - 1. The rest of State.reset is the model's choice (notes/assumptions/4.md) and is not stated here. -/
def Obligations.ResetIsIdle : Prop :=
  State.reset.status = 0 ∧ State.reset.inLen = 0 ∧ State.reset.outLen = 0 ∧ State.reset.outCap = 0 ∧
  State.reset.inOk = 0 ∧ State.reset.phase = 0x00 ∧ State.reset.op = 0x00 ∧
  State.reset.maxInLen.val = 2 ^ 32 - 1 ∧ step State.reset = .next State.reset

/-- R38, R265: with HUFFCORE idle, no value in CMD and no move of the host, a step changes nothing; whatever move the host
makes, HUFFCORE stays idle until a value stands in CMD; a platform reset in any state leaves the control and status
registers 0 and HUFFCORE idle. R36: no step, of a command or of the host, changes the parameter MAX_IN_LEN. The host's
moves as a list and CMD as a latch are the model's choice (notes/assumptions/7.md), MAX_IN_LEN as a field of State is
the model's choice of form (notes/assumptions/1.md), and the reset is one of the idle host (notes/assumptions/14.md). -/
def Obligations.IdleUntilHostActs : Prop :=
  (∀ s : State, s.phase = 0x00 → s.sub = none → s.cmd = none → s.hostQ = [] → step s = .next s) ∧
  (∀ s t : State, s.phase = 0x00 → s.sub = none → s.cmd = none → step s = .next t → t.phase = 0x00) ∧
  (∀ s t : State, hostAccess .reset s = .next t →
    t.status = 0 ∧ t.inLen = 0 ∧ t.outLen = 0 ∧ t.outCap = 0 ∧ t.inOk = 0 ∧ t.phase = 0x00 ∧ t.op = 0x00 ∧
    t.cmd = none) ∧
  (∀ s t : State, step s = .next t → t.maxInLen = s.maxInLen)

/-- R23, R26: a step runs the operation whose opcode stands where the sequencer looks: PHASE while a command runs, else a
command in CMD. Two clauses are the model's choice and no rule's: that a value written to CMD waits in a latch, which
the step that runs it empties (notes/assumptions/7.md), and the whole fourth clause, that a filled call slot is looked
at before PHASE and emptied (notes/assumptions/5.md, field sub). -/
def Obligations.StepRunsDecodedOperation : Prop :=
  (∀ (s : State) (p : Port) (b : Byte) (i : Instr),
    fetch s = some (p, b) → decode [b] = .ok (i, []) → i.wellFormedAt p = true → step s = exec i (consume p s)) ∧
  (∀ s : State, s.sub = none → s.phase ≠ 0x00 → fetch s = some (.phase, s.phase) ∧ consume .phase s = s) ∧
  (∀ (s : State) (c : Byte), s.sub = none → s.phase = 0x00 → s.cmd = some c →
    fetch s = some (.cmd, c) ∧ consume .cmd s = { s with cmd := none }) ∧
  (∀ (s : State) (b : Byte), s.sub = some b →
    fetch s = some (.call, b) ∧ consume .call s = { s with sub := none })

/-- R76: every CMD value other than 0x01 and 0x02 is refused, the opcodes of micro-operations among them. -/
def Obligations.ReservedCommandRefused : Prop :=
  ∀ (s : State) (c : Byte), Issued c s → c ≠ 0x01 → c ≠ 0x02 → step s = .refused (.reservedCommand c.toNat)

/-! ### The host interface (spec/10_state.md R26 to R28, R39; spec/20_memory.md) -/

/-- R25 to R28: what the host's reads and writes of the register window do, register by register, at the offsets of R28;
IN_OK takes and returns bit 0 only. Two points are the model's choice: the last clause, that a write of any byte to CMD,
a reserved value too, gives a next state that only holds the value in the latch cmd, where R26 says that the write runs
the command (here the next step does; notes/assumptions/7.md), and that one access is one whole register at its own
offset (notes/assumptions/15.md). -/
def Obligations.RegisterWindowAccesses : Prop :=
  ∀ (s : State) (v : Word),
    hostAccess (.regRead 0x04) s = .next { s with hostData := s.status.setWidth 64 } ∧
    hostAccess (.regRead 0x08) s = .next { s with hostData := s.inLen } ∧
    hostAccess (.regRead 0x10) s = .next { s with hostData := s.outLen } ∧
    hostAccess (.regRead 0x18) s = .next { s with hostData := s.outCap } ∧
    hostAccess (.regRead 0x20) s = .next { s with hostData := s.inOk.setWidth 64 } ∧
    hostAccess (.regWrite 0x08 v) s = .next { s with inLen := v } ∧
    hostAccess (.regWrite 0x18 v) s = .next { s with outCap := v } ∧
    (∃ t, hostAccess (.regWrite 0x20 v) s = .next t ∧ t.inOk.toNat = v.toNat % 2 ∧ t = { s with inOk := t.inOk }) ∧
    (v.toNat < 256 → ∃ t, hostAccess (.regWrite 0x00 v) s = .next t ∧ t = { s with cmd := t.cmd } ∧
      t.cmd = some (BitVec.ofNat 8 v.toNat))

/-- R26, R28: every other access to the window is refused: a read of CMD, a write of STATUS or OUT_LEN, any other
offset. That an offset inside a 64-bit register (0x0C, 0x11), which R28 says the register occupies, is refused with the
reserved ones is the model's choice: one access is one whole register at its own offset (notes/assumptions/15.md). -/
def Obligations.OtherWindowAccessesRefused : Prop :=
  ∀ (s : State) (off : Nat) (v : Word),
    (off ∉ [0x04, 0x08, 0x10, 0x18, 0x20] → hostAccess (.regRead off) s = .refused (.hostAccess off)) ∧
    (off ∉ [0x00, 0x08, 0x18, 0x20] → hostAccess (.regWrite off v) s = .refused (.hostAccess off))

/-- R34, R39, R52: the host places bytes in IN one by one, and a read of OUT below OUT_LEN returns the byte that stands
there. -/
def Obligations.BufferAccesses : Prop :=
  (∀ (s : State) (a : Word) (b : Byte), ∃ t, hostAccess (.inWrite a b) s = .next t ∧
    t.inBuf.read a.toNat = some b ∧ (∀ a', a' ≠ a.toNat → t.inBuf.read a' = s.inBuf.read a') ∧
    t = { s with inBuf := t.inBuf }) ∧
  (∀ (s : State) (a : Word) (b : Byte), a.toNat < s.outLen.toNat → s.outBuf.read a.toNat = some b →
    ∃ t, hostAccess (.outRead a) s = .next t ∧ t.hostData.toNat = b.toNat ∧ t = { s with hostData := t.hostData })

/-- R63, R68: while a command runs the host has no move: a step leaves its moves where they are, and CMD, IN and the
argument registers too. -/
def Obligations.HostWaitsWhileCommandRuns : Prop :=
  ∀ s t : State, s.phase ≠ 0x00 → s.sub = none → step s = .next t → SameInputSide s t ∧ t.cmd = s.cmd

/-- R27, R51, R69: no operation writes IN, IN_LEN, OUT_CAP or IN_OK, whichever way it ends. -/
def Obligations.InputSideNeverWritten : Prop :=
  ∀ (i : Instr) (s t : State), exec i s = .next t →
    t.inBuf = s.inBuf ∧ t.inLen = s.inLen ∧ t.outCap = s.outCap ∧ t.inOk = s.inOk

/-! ### Commands (spec/40_commands.md) -/

/-- R100: command issue. OP takes the opcode; IN_OK = 0 raises IOError(1) and IN_LEN > MAX_IN_LEN raises IOError(2), in that
order, with STAGE the command's opcode and OUT untouched apart from OUT_LEN; otherwise the microprogram begins with CLR
and nothing else changes. It holds for every MAX_IN_LEN that R11 allows. -/
def Obligations.CommandIssue : Prop :=
  ∀ (s : State) (i : Instr) (c : Byte), (i = .encode ∧ c = 0x01) ∨ (i = .decode ∧ c = 0x02) →
    (s.inOk = 0 → ∃ t, exec i s = .next t ∧ AbortedTo { s with op := c } t .ioNotOk c ∧ t.outBuf = s.outBuf) ∧
    (s.inOk = 1 → s.maxInLen.val < s.inLen.toNat →
      ∃ t, exec i s = .next t ∧ AbortedTo { s with op := c } t .ioTooLong c ∧ t.outBuf = s.outBuf) ∧
    (s.inOk = 1 → s.inLen.toNat ≤ s.maxInLen.val → exec i s = .next { s with op := c, phase := 0x10 })

/-- R103: CLR completes in every state and leaves the registers it lists fresh; the working registers it does not list and
NODE keep what they hold; STATUS, IN and the bytes of OUT are unchanged. Where PHASE goes, with the IPTR and the END
operand that it takes along, is R107's. -/
def Obligations.ClrMakesFresh : Prop :=
  ∀ s : State, ∃ t, exec .clr s = .next t ∧
    (∀ b, t.work.freqAt b = 0 ∧ t.work.clen b = 0 ∧ t.work.cbits b = []) ∧
    t.work.nnodes = 0 ∧ t.work.hsize = 0 ∧ t.work.heap = [] ∧ t.work.root = 0x1FF ∧ t.work.acc = 0 ∧
    t.work.held = 0 ∧ t.work.wbits = 0 ∧ t.work.rbits = 0 ∧ t.outLen = 0 ∧
    t.work.node = s.work.node ∧ t.work.scount = s.work.scount ∧ t.work.vbits = s.work.vbits ∧
    t.work.tbits = s.work.tbits ∧ t.work.pbase = s.work.pbase ∧ t.work.bit = s.work.bit ∧
    t.work.cursor = s.work.cursor ∧
    (∀ a, t.outBuf.read a = s.outBuf.read a) ∧ SameInputSide s t ∧ SameControl s t ∧
    (s.op = 0x01 → 0 < s.inLen.toNat → t.phase = 0x11 ∧ t.work.iptr = 0) ∧
    (s.op = 0x01 → s.inLen.toNat = 0 → t.phase = 0x16) ∧
    (s.op = 0x02 → s.inLen.toNat = 0 → t.phase = 0x1F ∧ t.endArg = 2) ∧
    (s.op = 0x02 → 0 < s.inLen.toNat → t.phase = 0x1C)

/-- R104, R105, R107: FACC adds 1 to the count of the byte at IPTR and to no other, and moves IPTR on; nothing else of the
working state changes but SCAN, which BUILD's scan writes when the pass is over: the scan then begins at Symbol 0. That
IPTR moves on to IN_LEN at the last byte, and that SCAN is 256 where the scan finds no Symbol, is the model's reading
(notes/assumptions/10.md). -/
def Obligations.FaccCountsByte : Prop :=
  ∀ (s : State) (b : Byte),
    s.work.iptr.toNat < s.inLen.toNat → s.inBuf.read s.work.iptr.toNat = some b →
    (s.work.freqAt b).toNat + 1 < 2 ^ 64 →
    ∃ t, exec .facc s = .next t ∧
      (t.work.freqAt b).toNat = (s.work.freqAt b).toNat + 1 ∧
      (∀ b', b' ≠ b → t.work.freqAt b' = s.work.freqAt b') ∧
      t.work.iptr.toNat = s.work.iptr.toNat + 1 ∧
      t.work = { s.work with freq := t.work.freq, iptr := t.work.iptr, scan := t.work.scan } ∧
      SameOutput s t ∧ SameInputSide s t ∧ SameControl s t ∧
      (s.work.iptr.toNat + 1 < s.inLen.toNat → t.phase = 0x11 ∧ t.work.scan = s.work.scan) ∧
      (s.work.iptr.toNat + 1 = s.inLen.toNat → BuildScansFrom 0 t)

/-- R107, R138, R139: the leaf scan goes on to the first Symbol at or after `k` whose frequency is nonzero; where there is
none, SCAN is 256 (the model's reading, notes/assumptions/10.md) and BUILD goes on to MERGE while HSIZE > 1, else to
ROOT. -/
def Obligations.LeafScanAscends : Prop :=
  ∀ (s : State) (k : Nat),
    (∀ b : Byte, k ≤ b.toNat → s.work.freqAt b ≠ 0 →
      (∀ b' : Byte, k ≤ b'.toNat → b'.toNat < b.toNat → s.work.freqAt b' = 0) →
      leafScan k s = { s with phase := 0x12, work := { s.work with scan := BitVec.ofNat 9 b.toNat } }) ∧
    ((∀ b : Byte, k ≤ b.toNat → s.work.freqAt b = 0) →
      leafScan k s =
        { s with phase := (if 1 < s.work.hsize.toNat then 0x15 else 0x16), work := { s.work with scan := 256 } })

/-- R106: END writes STATUS whole from its cause and OP, makes HUFFCORE idle, and leaves OUT_LEN, OUT, IN and the argument
registers as they stand. It completes in every state; with cause 0 and 2 the four STATUS words are those of R106. -/
def Obligations.EndCompletesCommand : Prop :=
  ∀ s : State, ∃ t, exec .endCmd s = .next t ∧ t.phase = 0x00 ∧ t.op = 0x00 ∧
    statusDone t.status = 1 ∧ statusFail t.status = 0 ∧ statusCause t.status = s.endArg ∧
    statusEmpty t.status = (if s.endArg = 2 then 1 else 0) ∧ statusDetail t.status = 0 ∧
    statusStage t.status = 0 ∧ statusLastcmd t.status = s.op ∧ statusReservedZero t.status = true ∧
    SameOutput s t ∧ SameInputSide s t ∧ t.cmd = s.cmd ∧
    (s.endArg = 0 → s.op = 0x01 → t.status = 0x01000001) ∧ (s.endArg = 2 → s.op = 0x01 → t.status = 0x01000025) ∧
    (s.endArg = 0 → s.op = 0x02 → t.status = 0x02000001) ∧ (s.endArg = 2 → s.op = 0x02 → t.status = 0x02000025)

/-! ### The heap (spec/41_heap.md) -/

/-- R122: HINS adds its operand to the set HEAP and 1 to HSIZE, and nothing else changes; on a full heap it raises
InternalGuard(1) with the STAGE of the micro-operation in PHASE. -/
def Obligations.HinsAddsToHeap : Prop :=
  ∀ s : State,
    (s.work.hsize.toNat < 256 → ∃ t, exec .hins s = .next t ∧
      (∀ j, j ∈ t.work.heap ↔ j ∈ s.work.heap ∨ j = s.hArg) ∧ t.work.hsize.toNat = s.work.hsize.toNat + 1 ∧
      t = { s with work := { s.work with heap := t.work.heap, hsize := t.work.hsize } }) ∧
    (256 ≤ s.work.hsize.toNat → ∃ t, exec .hins s = .next t ∧ AbortedTo s t .guardHeap s.phase)

/-- R121, R123: HEXT returns the one member of HEAP whose key (weight, then index) is before every other member's, takes it
out of the set and 1 off HSIZE, and nothing else changes. -/
def Obligations.HextTakesLeastKey : Prop :=
  ∀ s : State,
    s.work.heap ≠ [] → s.work.hsize ≠ 0 → s.work.heap.Nodup → (∀ j ∈ s.work.heap, (s.work.nodeAt j).isSome = true) →
    ∃ (t : State) (i : NodeIx), exec .hext s = .next t ∧ t.hArg = i ∧ i ∈ s.work.heap ∧
      (∀ j ∈ s.work.heap, j ≠ i → s.work.weightAt i < s.work.weightAt j ∨
        (s.work.weightAt i = s.work.weightAt j ∧ i.toNat < j.toNat)) ∧
      (∀ j, j ∈ t.work.heap ↔ j ∈ s.work.heap ∧ j ≠ i) ∧
      t.work.hsize.toNat + 1 = s.work.hsize.toNat ∧
      t = { s with hArg := t.hArg, work := { s.work with heap := t.work.heap, hsize := t.work.hsize } }

/-- R123: on an empty heap HEXT raises EmptyHeapError, detail 0. -/
def Obligations.HextOnEmptyHeapRaises : Prop :=
  ∀ s : State, s.work.hsize = 0 →
    ∃ t, exec .hext s = .next t ∧ AbortedTo s t .emptyHeap s.phase ∧
      statusCause t.status = 5 ∧ statusDetail t.status = 0

/-- R124: HEXT's result is a function of the set HEAP and the weights alone: two states whose heaps have the same members with
the same weights give the same index, however the members are listed. -/
def Obligations.HextIgnoresHeapOrder : Prop :=
  ∀ s s' t t' : State,
    (∀ j, j ∈ s.work.heap ↔ j ∈ s'.work.heap) → (∀ j ∈ s.work.heap, s.work.weightAt j = s'.work.weightAt j) →
    s.work.heap ≠ [] → s.work.hsize ≠ 0 → s'.work.hsize ≠ 0 →
    exec .hext s = .next t → exec .hext s' = .next t' → t.hArg = t'.hArg

/-! ### The tree builder (spec/42_tree_builder.md) -/

/-- R107, R136, R137, R139: LEAF makes the node at index NNODES a Leaf of the Symbol SCAN with its frequency as weight and
inserts it; no other node, no count and no byte changes; the leaf scan goes on at SCAN + 1. That SCAN is 256 where it
finds no Symbol is the model's reading (notes/assumptions/10.md). -/
def Obligations.LeafCreatesAndInserts : Prop :=
  ∀ (s : State) (b : Byte),
    s.work.scan.toNat = b.toNat → s.work.nnodes.toNat < 511 → s.work.hsize.toNat < 256 →
    ∃ t, exec .leaf s = .next t ∧
      t.work.nodeAt (BitVec.ofNat 9 s.work.nnodes.toNat) = some ⟨.leaf, b, s.work.freqAt b, 0x1FF, 0x1FF⟩ ∧
      (∀ j, j.toNat ≠ s.work.nnodes.toNat → t.work.nodeAt j = s.work.nodeAt j) ∧
      t.work.nnodes.toNat = s.work.nnodes.toNat + 1 ∧
      (∀ j, j ∈ t.work.heap ↔ j ∈ s.work.heap ∨ j.toNat = s.work.nnodes.toNat) ∧
      t.work.hsize.toNat = s.work.hsize.toNat + 1 ∧
      t.work = { s.work with node := t.work.node, nnodes := t.work.nnodes, heap := t.work.heap,
                             hsize := t.work.hsize, scan := t.work.scan } ∧
      SameOutput s t ∧ SameInputSide s t ∧ SameControl s t ∧ BuildScansFrom (b.toNat + 1) t

/-- R136, R122: LEAF raises InternalGuard(2) on a full arena and else InternalGuard(1) on a full heap, with STAGE LEAF. -/
def Obligations.LeafGuards : Prop :=
  ∀ s : State, s.work.scan.toNat < 256 →
    (511 ≤ s.work.nnodes.toNat → ∃ t, exec .leaf s = .next t ∧ AbortedTo s t .guardArena 0x12) ∧
    (s.work.nnodes.toNat < 511 → 256 ≤ s.work.hsize.toNat →
      ∃ t, exec .leaf s = .next t ∧ AbortedTo s t .guardHeap 0x12)

/-- R141, R146: MERGE takes the two members of HEAP with the least keys, the first as left child and the second as right
child of a new Internal node at index NNODES whose weight is their sum, and inserts it; HSIZE falls by one. -/
def Obligations.MergeJoinsTwoLightest : Prop :=
  ∀ s : State,
    HeapOk s.work → 2 ≤ s.work.hsize.toNat → s.work.nnodes.toNat < 511 →
    (∀ i ∈ s.work.heap, ∀ j ∈ s.work.heap, i ≠ j → s.work.weightAt i + s.work.weightAt j < 2 ^ 64) →
    ∃ (t : State) (a b : NodeIx) (nd : Node), exec .merge s = .next t ∧
      a ∈ s.work.heap ∧ b ∈ s.work.heap ∧ a ≠ b ∧ s.work.keyLt a b = true ∧
      (∀ j ∈ s.work.heap, j ≠ a → j ≠ b → s.work.keyLt b j = true) ∧
      t.work.nodeAt (BitVec.ofNat 9 s.work.nnodes.toNat) = some nd ∧
      nd.tag = .internal ∧ nd.sym = 0 ∧ nd.left = a ∧ nd.right = b ∧
      nd.weight.toNat = s.work.weightAt a + s.work.weightAt b ∧
      (∀ j, j.toNat ≠ s.work.nnodes.toNat → t.work.nodeAt j = s.work.nodeAt j) ∧
      t.work.nnodes.toNat = s.work.nnodes.toNat + 1 ∧
      (∀ j, j ∈ t.work.heap ↔ (j ∈ s.work.heap ∧ j ≠ a ∧ j ≠ b) ∨ j.toNat = s.work.nnodes.toNat) ∧
      t.work.hsize.toNat + 1 = s.work.hsize.toNat ∧
      t.work = { s.work with node := t.work.node, nnodes := t.work.nnodes, heap := t.work.heap,
                             hsize := t.work.hsize } ∧
      SameOutput s t ∧ SameInputSide s t ∧ SameControl s t ∧
      t.phase = (if 2 < s.work.hsize.toNat then 0x15 else 0x16)

/-- R123, R141, R246: MERGE on a heap of fewer than two members raises EmptyHeapError with STAGE MERGE. -/
def Obligations.MergeOnShortHeapRaises : Prop :=
  ∀ s : State, HeapOk s.work → s.work.nnodes.toNat ≤ 511 → s.work.hsize.toNat < 2 →
    ∃ t, exec .merge s = .next t ∧ AbortedTo s t .emptyHeap 0x15

/-- R142: ROOT takes the last member of HEAP as the root, or NIL where the heap is empty; the heap is empty afterwards and
nothing else of the working state changes. -/
def Obligations.RootTakesLastNode : Prop :=
  ∀ s : State, HeapOk s.work → s.work.nnodes.toNat ≤ 511 → s.work.hsize.toNat ≤ 1 →
    ∃ t, exec .root s = .next t ∧
      (s.work.heap = [] → t.work.root = 0x1FF) ∧ (∀ i, s.work.heap = [i] → t.work.root = i) ∧
      t.work.heap = [] ∧ t.work.hsize = 0 ∧
      t.work = { s.work with root := t.work.root, heap := t.work.heap, hsize := t.work.hsize } ∧
      SameOutput s t ∧ SameInputSide s t ∧ SameControl s t ∧
      (s.op = 0x01 → s.work.heap = [] → t.phase = 0x1F ∧ t.endArg = 2) ∧
      (s.op = 0x01 → s.work.heap ≠ [] → t.phase = 0x17) ∧ (s.op = 0x02 → t.phase = 0x20)

/-! ### The code table (spec/43_code_table.md) -/

/-- R156, R157, R158: CGEN gives the Symbol of every Leaf below an Internal root its root-to-leaf path, 0 for left and 1 for
right, gives a single Leaf the one-bit code 0, and changes no other entry of CODE and nothing else. -/
def Obligations.CgenAssignsPaths : Prop :=
  ∀ (s : State) (top : Node),
    s.work.nodeAt s.work.root = some top → Visitable s.work → LeavesDistinct s.work →
    ∃ t, exec .cgen s = .next t ∧
      (top.tag = .internal → ∀ b path, leafOn s.work s.work.root path = some b → t.work.codeAt b = some path) ∧
      (top.tag = .leaf → t.work.codeAt top.sym = some [0]) ∧
      (∀ b, (∀ path, leafOn s.work s.work.root path ≠ some b) → t.work.codeAt b = s.work.codeAt b) ∧
      t = { s with phase := 0x18, work := { s.work with code := t.work.code } }

/-- R159, R160: where CGEN completes on a table with no codes, every code has 1 to 255 bits and no code is a prefix of
another Symbol's. -/
def Obligations.CodesPrefixFree : Prop :=
  ∀ s t : State, (∀ b, s.work.codeAt b = none) → exec .cgen s = .next t → t.phase = 0x18 →
    (∀ b path, t.work.codeAt b = some path → 1 ≤ path.length ∧ path.length ≤ 255) ∧
    (∀ b c p q, b ≠ c → t.work.codeAt b = some p → t.work.codeAt c = some q → ¬ p <+: q)

/-! ### The bit writer (spec/44_bit_writer.md) -/

/-- R173: PUSH1 shifts its bit into ACC and counts it; the eighth bit appends ACC to OUT at OUT_LEN and empties ACC and HELD;
with OUT full that raises IOError(3). Nothing else changes. -/
def Obligations.Push1ShiftsAndEmits : Prop :=
  ∀ s : State, s.work.held.toNat ≤ 7 → s.work.wbits.toNat + 1 < 2 ^ 64 →
    (s.work.held.toNat < 7 → ∃ t, exec .push1 s = .next t ∧
      t.work.acc.toNat = s.work.acc.toNat * 2 % 256 + s.bArg.toNat ∧
      t.work.held.toNat = s.work.held.toNat + 1 ∧ t.work.wbits.toNat = s.work.wbits.toNat + 1 ∧
      t = { s with work := { s.work with acc := t.work.acc, held := t.work.held, wbits := t.work.wbits } }) ∧
    (s.work.held.toNat = 7 → s.outLen.toNat < s.outCap.toNat → ∃ t, exec .push1 s = .next t ∧
      t.outBuf.read s.outLen.toNat = some (BitVec.ofNat 8 (s.work.acc.toNat * 2 % 256 + s.bArg.toNat)) ∧
      (∀ a, a ≠ s.outLen.toNat → t.outBuf.read a = s.outBuf.read a) ∧
      t.outLen.toNat = s.outLen.toNat + 1 ∧ t.work.acc = 0 ∧ t.work.held = 0 ∧
      t.work.wbits.toNat = s.work.wbits.toNat + 1 ∧
      t = { s with outBuf := t.outBuf, outLen := t.outLen,
                   work := { s.work with acc := t.work.acc, held := t.work.held, wbits := t.work.wbits } }) ∧
    (s.work.held.toNat = 7 → s.outCap.toNat ≤ s.outLen.toNat →
      ∃ t, exec .push1 s = .next t ∧ AbortedTo s t .ioOutFull s.phase)

/-- R56, R171, R175, R176: PUSHC appends the bits of the code of the byte at IPTR, first path bit first, to the bits the
writer holds; the bytes it completes are appended to OUT most significant bit first and no other byte of OUT changes.
R58, R246: where a byte it completes finds OUT full, inside the code too, it raises IOError(3) with STAGE PUSHC. R107,
R180: PUSHC again for the next byte of IN, FIN behind the last. That IPTR moves on to IN_LEN at the last byte is the
model's reading (notes/assumptions/10.md). -/
def Obligations.PushcAppendsCode : Prop :=
  ∀ (s : State) (base : Nat) (bits code : BitString) (b : Byte),
    WriterHolds s base bits → s.work.iptr.toNat < s.inLen.toNat → s.inBuf.read s.work.iptr.toNat = some b →
    s.work.codeAt b = some code → bits.length + code.length < 2 ^ 64 →
    ((bits.length + code.length) / 8 = bits.length / 8 ∨
        base + (bits.length + code.length) / 8 ≤ s.outCap.toNat →
      ∃ t, exec .pushc s = .next t ∧ WriterHolds t base (bits ++ code) ∧ OnlyAppended s t ∧
        t.work.iptr.toNat = s.work.iptr.toNat + 1 ∧
        t.work = { s.work with acc := t.work.acc, held := t.work.held, wbits := t.work.wbits, iptr := t.work.iptr } ∧
        SameInputSide s t ∧ SameControl s t ∧
        t.phase = (if s.work.iptr.toNat + 1 < s.inLen.toNat then 0x1A else 0x1B)) ∧
    (bits.length / 8 < (bits.length + code.length) / 8 →
        s.outCap.toNat < base + (bits.length + code.length) / 8 →
      ∃ t, exec .pushc s = .next t ∧ AbortedTo s t .ioOutFull 0x1A)

/-- R56, R85, R177: FIN appends the held bits, padded with 0 bits below, so that OUT holds exactly ceil(n / 8) payload bytes
from `base` on, bit k of the payload at bit 7 - (k mod 8) of byte k div 8, every other byte unchanged. -/
def Obligations.FinPadsLastByte : Prop :=
  ∀ (s : State) (base : Nat) (bits : BitString),
    WriterHolds s base bits → s.work.wbits = s.work.tbits → base + (bits.length + 7) / 8 ≤ s.outCap.toNat →
    ∃ t, exec .fin s = .next t ∧ t.outLen.toNat = base + (bits.length + 7) / 8 ∧
      (∀ k, k < 8 * ((bits.length + 7) / 8) → ∃ y, t.outBuf.read (base + k / 8) = some y ∧
        payloadBit y k = (bits[k]?).getD 0) ∧
      t.work = { s.work with acc := 0, held := 0 } ∧ OnlyAppended s t ∧ SameInputSide s t ∧ SameControl s t ∧
      t.phase = 0x1F ∧ t.endArg = 0

/-- R58, R177: FIN with held bits and OUT full raises IOError(3); with nothing held, or with held bits and room for their
byte, it raises InternalGuard(4) where WBITS is other than TBITS; both with STAGE FIN. -/
def Obligations.FinRaises : Prop :=
  ∀ s : State,
    (0 < s.work.held.toNat → s.outCap.toNat ≤ s.outLen.toNat →
      ∃ t, exec .fin s = .next t ∧ AbortedTo s t .ioOutFull 0x1B) ∧
    (s.work.held.toNat = 0 ∨ s.outLen.toNat < s.outCap.toNat → s.work.wbits ≠ s.work.tbits →
      ∃ t, exec .fin s = .next t ∧ AbortedTo s t .guardWriter 0x1B)

/-! ### The container format (spec/45_container.md) -/

/-- R80, R191 to R194: HSER appends the header of the tables FREQ and CODE to OUT and leaves SCOUNT, TBITS and VBITS as the
header says, SCOUNT the number of Symbols with nonzero frequency and TBITS the sum of FREQ[s] * CLEN[s]; no other byte of OUT and no other register but the scan counters changes. -/
def Obligations.HserAppendsHeader : Prop :=
  ∀ s : State,
    1 ≤ bitSum s.work → bitSum s.work < 2 ^ 64 →
    s.outLen.toNat + (13 + 9 * distinctSymbols s.work) ≤ s.outCap.toNat →
    ∃ t, exec .hser s = .next t ∧
      t.outLen.toNat = s.outLen.toNat + (13 + 9 * distinctSymbols s.work) ∧
      (∀ k, k < 13 + 9 * distinctSymbols s.work → t.outBuf.read (s.outLen.toNat + k) =
        (headerBytes (fun b => (s.work.freqAt b).toNat) (bitSum s.work))[k]?) ∧
      t.work.scount.toNat = distinctSymbols s.work ∧ t.work.tbits.toNat = bitSum s.work ∧
      t.work.scount.toNat = distinct (fun b => (s.work.freqAt b).toNat) ∧
      t.work.tbits.toNat = (symbols.map fun b => (s.work.freqAt b).toNat * s.work.clen b).sum ∧
      t.work.vbits.toNat = (bitSum s.work - 1) % 8 + 1 ∧
      t.work = { s.work with scount := t.work.scount, tbits := t.work.tbits, vbits := t.work.vbits,
                             iptr := t.work.iptr, scan := t.work.scan } ∧
      OnlyAppended s t ∧ SameInputSide s t ∧ SameControl s t ∧
      (0 < s.inLen.toNat → t.phase = 0x1A ∧ t.work.iptr = 0)

/-- R58, R191: HSER raises IOError(3) where the header does not fit OUT_CAP, with STAGE HSER and all of OUT disowned. -/
def Obligations.HserOutFull : Prop :=
  ∀ s : State, s.outCap.toNat < s.outLen.toNat + (13 + 9 * distinctSymbols s.work) →
    ∃ t, exec .hser s = .next t ∧ AbortedTo s t .ioOutFull 0x18

/-- R196 to R201, R204, R244: what HPAR does with every header the host has placed, its checks in the order of R196: the first
that fails is the one reported, with STAGE HPAR. The bits that P payload bytes can supply are 0 where P = 0 and else
8·(P - 1) + VBITS. -/
def Obligations.HparChecksInOrder : Prop :=
  ∀ s : State, Loaded s →
    (s.inLen.toNat < 4 → ∃ t, exec .hpar s = .next t ∧ AbortedTo s t .truncCount 0x1C) ∧
    (4 ≤ s.inLen.toNat → declaredCount s < 0 ∨ 256 < declaredCount s →
      ∃ t, exec .hpar s = .next t ∧ AbortedTo s t .malCount 0x1C) ∧
    (∀ n : Nat, 4 ≤ s.inLen.toNat → declaredCount s = n → n ≤ 256 →
      (s.inLen.toNat < 13 + 9 * n → ∃ t, exec .hpar s = .next t ∧ AbortedTo s t .truncPairs 0x1C) ∧
      (13 + 9 * n ≤ s.inLen.toNat → 2 ^ 64 ≤ declaredSum s n →
        ∃ t, exec .hpar s = .next t ∧ AbortedTo s t .malSum 0x1C) ∧
      (13 + 9 * n ≤ s.inLen.toNat → declaredSum s n < 2 ^ 64 →
        (inByte s (4 + 9 * n)).toNat = 0 ∨ 8 < (inByte s (4 + 9 * n)).toNat →
        ∃ t, exec .hpar s = .next t ∧ AbortedTo s t .malValid 0x1C) ∧
      (13 + 9 * n ≤ s.inLen.toNat → declaredSum s n < 2 ^ 64 →
        1 ≤ (inByte s (4 + 9 * n)).toNat → (inByte s (4 + 9 * n)).toNat ≤ 8 →
        (if s.inLen.toNat - (13 + 9 * n) = 0 then 0
          else 8 * (s.inLen.toNat - (13 + 9 * n) - 1) + (inByte s (4 + 9 * n)).toNat) < inNat s (5 + 9 * n) 8 →
        ∃ t, exec .hpar s = .next t ∧ AbortedTo s t .malTotal 0x1C))

/-- R107, R196, R198, R199: a header that passes every check, TBITS at most the available bits (0 without payload bytes,
else 8·(P - 1) + VBITS), leaves SCOUNT, FREQ, VBITS, TBITS and PBASE as it declares, a repeated Symbol taking its last
pair, and BUILD's leaf scan begins at Symbol 0; no byte of OUT and no other register but SCAN changes. That SCAN is 256
where the scan finds no Symbol is the model's reading (notes/assumptions/10.md). -/
def Obligations.HparLoadsHeader : Prop :=
  ∀ (s : State) (n : Nat), Loaded s → declaredCount s = n → n ≤ 256 → 13 + 9 * n ≤ s.inLen.toNat →
    declaredSum s n < 2 ^ 64 → 1 ≤ (inByte s (4 + 9 * n)).toNat → (inByte s (4 + 9 * n)).toNat ≤ 8 →
    inNat s (5 + 9 * n) 8 ≤ (if s.inLen.toNat - (13 + 9 * n) = 0 then 0
      else 8 * (s.inLen.toNat - (13 + 9 * n) - 1) + (inByte s (4 + 9 * n)).toNat) →
    ∃ t, exec .hpar s = .next t ∧
      t.work.scount.toNat = n ∧ (∀ b, (t.work.freqAt b).toNat = declaredFreq s n b) ∧
      t.work.vbits = inByte s (4 + 9 * n) ∧ t.work.tbits.toNat = inNat s (5 + 9 * n) 8 ∧
      t.work.pbase.toNat = 13 + 9 * n ∧
      t.work = { s.work with scount := t.work.scount, freq := t.work.freq, vbits := t.work.vbits,
                             tbits := t.work.tbits, pbase := t.work.pbase, scan := t.work.scan } ∧
      SameOutput s t ∧ SameInputSide s t ∧ SameControl s t ∧ BuildScansFrom 0 t

/-! ### The decode walk (spec/46_decode_walk.md) -/

/-- R216: GETB fetches bit `7 - (RBITS mod 8)` of the byte at PBASE + RBITS div 8 into BIT and adds 1 to RBITS; nothing else
changes but PHASE, which goes to WALK1. -/
def Obligations.GetbFetchesBit : Prop :=
  ∀ (s : State) (y : Byte),
    s.work.pbase.toNat + s.work.rbits.toNat / 8 < s.inLen.toNat →
    s.inBuf.read (s.work.pbase.toNat + s.work.rbits.toNat / 8) = some y → s.work.rbits.toNat + 1 < 2 ^ 64 →
    ∃ t, exec .getb s = .next t ∧ t.work.bit.toNat = y.toNat / 2 ^ (7 - s.work.rbits.toNat % 8) % 2 ∧
      t.work.rbits.toNat = s.work.rbits.toNat + 1 ∧
      t = { s with phase := 0x1E, work := { s.work with bit := t.work.bit, rbits := t.work.rbits } }

/-- R57: a read of IN at or beyond IN_LEN has no meaning: the micro-operations that read one input byte stop there. -/
def Obligations.ReadBeyondInputFaults : Prop :=
  ∀ s : State,
    (s.inLen.toNat ≤ s.work.iptr.toNat →
      exec .facc s = .fault (.inOutOfRange s.work.iptr.toNat) ∧
      exec .pushc s = .fault (.inOutOfRange s.work.iptr.toNat)) ∧
    (s.inLen.toNat ≤ s.work.pbase.toNat + s.work.rbits.toNat / 8 →
      exec .getb s = .fault (.inOutOfRange (s.work.pbase.toNat + s.work.rbits.toNat / 8)))

/-- R217: WBEG with a tree sets CURSOR to ROOT; without one it goes on to END(2) where TBITS is 0 and else raises
MalformedHeaderError(5) with STAGE WBEG. Nothing else changes but PHASE. Where PHASE goes with a tree is R222's loop: the
model tests RBITS < TBITS, which is its reading (notes/assumptions/17.md); R107's rows for WBEG test TBITS > 0, the same
where RBITS is 0. -/
def Obligations.WbegBeginsWalk : Prop :=
  ∀ s : State,
    (s.work.root ≠ 0x1FF → exec .wbeg s = .next { s with
      phase := (if s.work.rbits.toNat < s.work.tbits.toNat then 0x1D else 0x21),
      work := { s.work with cursor := s.work.root } }) ∧
    (s.work.root = 0x1FF → s.work.tbits = 0 → exec .wbeg s = .next { s with phase := 0x1F, endArg := 2 }) ∧
    (s.work.root = 0x1FF → s.work.tbits ≠ 0 → ∃ t, exec .wbeg s = .next t ∧ AbortedTo s t .malNoTree 0x20)

/-- R218: with an Internal root, WALK1 moves CURSOR to the left child on bit 0 and to the right one on bit 1; a Leaf there is
emitted at OUT_LEN and CURSOR is reset to ROOT. Nothing else changes but PHASE, which goes where R222's test RBITS < TBITS
says, also where RBITS exceeds TBITS, for which R107 has no row: the model's reading (notes/assumptions/17.md). -/
def Obligations.Walk1MovesCursor : Prop :=
  ∀ (s : State) (top here nd : Node) (child : NodeIx),
    s.work.nodeAt s.work.root = some top → top.tag = .internal → s.work.nodeAt s.work.cursor = some here →
    child = (if s.work.bit = 0 then here.left else here.right) → s.work.nodeAt child = some nd →
    (nd.tag = .internal → exec .walk1 s = .next { s with
      phase := (if s.work.rbits.toNat < s.work.tbits.toNat then 0x1D else 0x21),
      work := { s.work with cursor := child } }) ∧
    (nd.tag = .leaf → s.outLen.toNat < s.outCap.toNat → ∃ t, exec .walk1 s = .next t ∧
      t.outBuf.read s.outLen.toNat = some nd.sym ∧ (∀ a, a ≠ s.outLen.toNat → t.outBuf.read a = s.outBuf.read a) ∧
      t.outLen.toNat = s.outLen.toNat + 1 ∧
      t = { s with outBuf := t.outBuf, outLen := t.outLen,
                   phase := (if s.work.rbits.toNat < s.work.tbits.toNat then 0x1D else 0x21),
                   work := { s.work with cursor := s.work.root } }) ∧
    (nd.tag = .leaf → s.outCap.toNat ≤ s.outLen.toNat →
      ∃ t, exec .walk1 s = .next t ∧ AbortedTo s t .ioOutFull 0x1E)

/-- R218, R220: with a single-leaf tree every consumed bit, whatever its value, emits the root's Symbol at OUT_LEN, and CURSOR
stays; with OUT full it raises IOError(3). PHASE goes where R222's test RBITS < TBITS says, also where RBITS exceeds
TBITS, for which R107 has no row: the model's reading (notes/assumptions/17.md). -/
def Obligations.Walk1SingleLeafEmits : Prop :=
  ∀ (s : State) (top : Node), s.work.nodeAt s.work.root = some top → top.tag = .leaf →
    (s.outLen.toNat < s.outCap.toNat → ∃ t, exec .walk1 s = .next t ∧
      t.outBuf.read s.outLen.toNat = some top.sym ∧ (∀ a, a ≠ s.outLen.toNat → t.outBuf.read a = s.outBuf.read a) ∧
      t.outLen.toNat = s.outLen.toNat + 1 ∧
      t = { s with outBuf := t.outBuf, outLen := t.outLen,
                   phase := (if s.work.rbits.toNat < s.work.tbits.toNat then 0x1D else 0x21) }) ∧
    (s.outCap.toNat ≤ s.outLen.toNat → ∃ t, exec .walk1 s = .next t ∧ AbortedTo s t .ioOutFull 0x1E)

/-- R221: WFIN passes on to END(0) where CURSOR is ROOT and else raises MalformedHeaderError(6) with STAGE WFIN. -/
def Obligations.WfinChecksCursor : Prop :=
  ∀ s : State,
    (s.work.cursor = s.work.root → exec .wfin s = .next { s with phase := 0x1F, endArg := 0 }) ∧
    (s.work.cursor ≠ s.work.root → ∃ t, exec .wfin s = .next t ∧ AbortedTo s t .malMidCode 0x21)

/-! ### Errors and flags (spec/60_exceptions.md) -/

/-- R246: the abort sequence, for every typed error and every stage: OUT_LEN 0, STATUS written whole (DONE 1, FAIL 1, EMPTY 0,
CAUSE and DETAIL the codes of R236 and R237, written out in R237's order with EmptyHeapError, cause 5 and detail 0, in its
place, STAGE, LASTCMD = OP, reserved bits 0), PHASE idle, OP 0, IN and the argument registers unchanged. -/
def Obligations.AbortSequence : Prop :=
  ∀ (e : Raise) (stage : Byte) (s u : State) (k : State → State), u.op = s.op → SameInputSide s u →
    ∃ t, settle stage (.raise e u) k = .next t ∧ AbortedTo s t e stage ∧
      statusDone t.status = 1 ∧ statusFail t.status = 1 ∧ statusEmpty t.status = 0 ∧
      statusCause t.status = e.cause ∧ statusDetail t.status = e.detail ∧ statusStage t.status = stage ∧
      statusLastcmd t.status = s.op ∧ statusReservedZero t.status = true ∧
      (e, (statusCause t.status).toNat, (statusDetail t.status).toNat) ∈
        [(Raise.ioNotOk, 1, 1), (.ioTooLong, 1, 2), (.ioOutFull, 1, 3),
         (.malCount, 3, 1), (.malSum, 3, 2), (.malValid, 3, 3), (.malTotal, 3, 4), (.malNoTree, 3, 5), (.malMidCode, 3, 6),
         (.truncCount, 4, 1), (.truncPairs, 4, 2), (.emptyHeap, 5, 0),
         (.guardHeap, 6, 1), (.guardArena, 6, 2), (.guardCode, 6, 3), (.guardWriter, 6, 4)]

/-- R25: STATUS is written only by END and by the abort sequence: any other operation leaves it as it stands, unless it
aborts, and then HUFFCORE is idle with OUT_LEN 0. -/
def Obligations.StatusWrittenOnlyAtTheEnd : Prop :=
  ∀ (i : Instr) (s t : State), i ≠ .endCmd → exec i s = .next t →
    t.status = s.status ∨
    (∃ (e : Raise) (stage op : Byte), t.status = abortStatus e stage op) ∧ t.phase = 0x00 ∧ t.op = 0x00 ∧ t.outLen = 0

/-- R246: STAGE names the micro-operation in PHASE when the error was raised, also where the error comes from a subroutine it
calls. -/
def Obligations.StageIsRunningOperation : Prop :=
  ∀ s t : State, s.sub = none → s.phase ≠ 0x00 → step s = .next t → t.phase = 0x00 → statusFail t.status = 1 →
    statusStage t.status = s.phase

/-- R52, R53: the micro-operations that append nothing (FACC, LEAF, HINS, HEXT, MERGE, ROOT, CGEN, HPAR, GETB, WBEG, WFIN) leave
every byte of OUT and of IN, OUT_LEN, STATUS, OP and CMD as they were, unless they abort. -/
def Obligations.NonStoringFrame : Prop :=
  ∀ (i : Instr) (s t : State),
    i ∈ [Instr.facc, .leaf, .hins, .hext, .merge, .root, .cgen, .hpar, .getb, .wbeg, .wfin] →
    exec i s = .next t →
    (∃ (e : Raise) (stage : Byte), AbortedTo s t e stage) ∨ SameOutput s t ∧ SameInputSide s t ∧ SameControl s t

/-- R52, R53, R58: the micro-operations that append (HSER, PUSH1, PUSHC, FIN, WALK1) change OUT only from OUT_LEN upwards, up to
the new OUT_LEN, and leave FREQ, NODE, NNODES, HEAP, HSIZE, CODE, ROOT, STATUS, OP, CMD and the input side as they were,
unless they abort. -/
def Obligations.StoringFrame : Prop :=
  ∀ (i : Instr) (s t : State), i ∈ [Instr.hser, .push1, .pushc, .fin, .walk1] → exec i s = .next t →
    (∃ (e : Raise) (stage : Byte), AbortedTo s t e stage) ∨
    OnlyAppended s t ∧ (∀ a, s.outLen.toNat ≤ a → a < t.outLen.toNat → (t.outBuf.read a).isSome = true) ∧
    t.work.freq = s.work.freq ∧ t.work.node = s.work.node ∧ t.work.nnodes = s.work.nnodes ∧
    t.work.heap = s.work.heap ∧ t.work.hsize = s.work.hsize ∧ t.work.code = s.work.code ∧
    t.work.root = s.work.root ∧ SameInputSide s t ∧ SameControl s t

/-! ### The invariant -/

/-- The invariant holds right after reset. -/
def Obligations.ResetMeetsInvariant : Prop := Inv State.reset ∧ BuildBounds State.reset

/-- Every step, of a command or of the host, keeps the invariant: buffers canonical, PHASE and OP legal and agreeing, STATUS
with its reserved bits 0 and a legal cause, OUT_LEN 0 after a failure or an empty completion and within OUT_CAP while a
command runs, HEAP and NODE well formed, and the preconditions of the operation in PHASE (R25, R31, R32, R54, R125, R148,
R273). -/
def Obligations.StepKeepsInvariant : Prop :=
  ∀ s t : State, Inv s → step s = .next t → Inv t

/-- R57, R76: under the invariant, with IN filled up to IN_LEN, no step faults, and none is refused but a reserved CMD value and a
host access to which the spec gives no meaning. -/
def Obligations.InvariantStepsNeverStop : Prop :=
  ∀ s : State, Inv s → Loaded s →
    (∀ f, step s ≠ .fault f) ∧
    (∀ r, step s = .refused r → (∃ c, r = .reservedCommand c) ∨ ∃ off, r = .hostAccess off)

/-- R108, R140, R148: the counts of BUILD stay within their bounds along every step. -/
def Obligations.StepKeepsBuildBounds : Prop :=
  ∀ s t : State, Inv s → BuildBounds s → step s = .next t → BuildBounds t

/-- R126, R148, R159, R243: under the invariant and the bounds of BUILD, no micro-operation but FIN can end a command with cause
5 (EmptyHeapError) or 6 (InternalGuard). -/
def Obligations.HeapAndArenaGuardsUnreachable : Prop :=
  ∀ s t : State, Inv s → BuildBounds s → s.phase ≠ 0x00 → s.phase ≠ 0x1B → step s = .next t → t.phase = 0x00 →
    (statusCause t.status).toNat ≤ 4

/-! ### Whole commands -/

/-- R101, R102, R239: an empty input: ENCODE of zero bytes and DECODE of the zero-length artifact complete with the EMPTY signal,
OUT_LEN 0, and the STATUS words 0x01000025 and 0x02000025. -/
def Obligations.EmptyInputCompletes : Prop :=
  ∀ (s : State) (c : Byte), c = 0x01 ∨ c = 0x02 → Issued c s → s.inOk = 1 → s.inLen = 0 →
    ∃ t, CompletesIn s t ∧ t.outLen = 0 ∧ t.status = (if c = 0x01 then 0x01000025 else 0x02000025) ∧
      SameInputSide s t

/-- R100, R268: a command issued before the host has asserted IN_OK, the first command after reset among them, ends at once with
IOError(1): STATUS 0x01010113 for ENCODE, 0x02020113 for DECODE. -/
def Obligations.UnpreparedCommandFails : Prop :=
  ∀ (s : State) (c : Byte), c = 0x01 ∨ c = 0x02 → Issued c s → s.inOk = 0 →
    ∃ t, step s = .next t ∧ t.phase = 0x00 ∧ t.outLen = 0 ∧ t.outBuf = s.outBuf ∧
      t.status = (if c = 0x01 then 0x01010113 else 0x02020113)

/-- R108: every command the host issues with IN filled completes: HUFFCORE is idle again after finitely many steps, DONE is 1 and
LASTCMD is the command, from whatever working state it began in. -/
def Obligations.EveryCommandCompletes : Prop :=
  ∀ (s : State) (c : Byte), c = 0x01 ∨ c = 0x02 → Issued c s → Loaded s →
    ∃ t, CompletesIn s t ∧ statusDone t.status = 1 ∧ statusLastcmd t.status = c ∧ SameInputSide s t

/-- R181, R236, R243, R244: the causes a command can end with: ENCODE with 0, 1 or 2, DECODE with 0 to 4; EmptyHeapError and
InternalGuard never end a command. -/
def Obligations.OnlyReachableCauses : Prop :=
  ∀ (s t : State) (c : Byte), c = 0x01 ∨ c = 0x02 → Issued c s → Loaded s → CompletesIn s t →
    (statusCause t.status).toNat ≤ (if c = 0x01 then 2 else 4)

/-- R9, R11, R18, R85: with IN_OK set, an input of legal length and room for the longest header and 255 bits for each input
byte, ENCODE succeeds, and it signals EMPTY exactly for the empty input. -/
def Obligations.EncodeSucceedsWithRoom : Prop :=
  ∀ s : State, Issued 0x01 s → Loaded s → s.inOk = 1 → s.inLen.toNat ≤ s.maxInLen.val →
    13 + 9 * 256 + 32 * s.inLen.toNat ≤ s.outCap.toNat →
    ∃ t, CompletesIn s t ∧ statusFail t.status = 0 ∧ statusEmpty t.status = (if s.inLen = 0 then 1 else 0)

/-- R80 to R85, R105, R192: a successful ENCODE of a non-empty input leaves in OUT the header whose frequencies are the byte
counts of IN and whose total bit count is some total of at least 1, followed by exactly ceil(total / 8) payload bytes. -/
def Obligations.EncodeWritesCountsOfInput : Prop :=
  ∀ s t : State, Issued 0x01 s → Loaded s → 0 < s.inLen.toNat → CompletesIn s t → statusFail t.status = 0 →
    ∃ total, 1 ≤ total ∧
      t.outLen.toNat = 13 + 9 * distinct (countIn s) + (total + 7) / 8 ∧
      ∀ k, k < 13 + 9 * distinct (countIn s) → t.outBuf.read k = (headerBytes (countIn s) total)[k]?

/-- R111: a command's result depends only on IN, IN_LEN, OUT_CAP, IN_OK and the fixed parameters: two states that agree on
these (of the parameters MAX_IN_LEN alone is open, R11), whatever else they hold, end with the same STATUS, OUT_LEN and output bytes. -/
def Obligations.ResultDependsOnArgumentsOnly : Prop :=
  ∀ (s s' t : State) (c : Byte), c = 0x01 ∨ c = 0x02 → Issued c s → Issued c s' →
    s'.inLen = s.inLen → s'.outCap = s.outCap → s'.inOk = s.inOk → s'.maxInLen = s.maxInLen →
    (∀ a, a < s.inLen.toNat → s'.inBuf.read a = s.inBuf.read a) → CompletesIn s t →
    ∃ t', CompletesIn s' t' ∧ t'.status = t.status ∧ t'.outLen = t.outLen ∧
      ∀ a, a < t.outLen.toNat → t'.outBuf.read a = t.outBuf.read a

/-- R18, R224: the round trip: where ENCODE of an input succeeds (or ends empty) and its artifact is given to DECODE with room for
the output, DECODE succeeds and its output is that input, byte for byte. -/
def Obligations.DecodeOfEncodeIsInput : Prop :=
  ∀ s t u : State, Issued 0x01 s → Loaded s → CompletesIn s t → statusFail t.status = 0 →
    Issued 0x02 u → CopiesOutput t u → u.inOk = 1 → u.inLen.toNat ≤ u.maxInLen.val →
    s.inLen.toNat ≤ u.outCap.toNat →
    ∃ v, CompletesIn u v ∧ statusFail v.status = 0 ∧ v.outLen = s.inLen ∧
      ∀ a, a < s.inLen.toNat → v.outBuf.read a = s.inBuf.read a
end

