-- ==== Sys2Proof/Laws/State.lean ====
section
/-! SUPPORT. The small lemmas of the named updates of State: what each leaves and what it writes, true by rfl. -/

namespace Sys2Proof.Machine

section Updates
variable (s : State) (w : Work) (p : Byte) (m : Memory) (len v : Word) (c : BitVec 4) (k : BitVec 9)

@[simp] theorem State.setWork_work : (s.setWork w).work = w := rfl
@[simp] theorem State.setWork_status : (s.setWork w).status = s.status := rfl
@[simp] theorem State.setWork_inLen : (s.setWork w).inLen = s.inLen := rfl
@[simp] theorem State.setWork_outLen : (s.setWork w).outLen = s.outLen := rfl
@[simp] theorem State.setWork_outCap : (s.setWork w).outCap = s.outCap := rfl
@[simp] theorem State.setWork_inOk : (s.setWork w).inOk = s.inOk := rfl
@[simp] theorem State.setWork_cmd : (s.setWork w).cmd = s.cmd := rfl
@[simp] theorem State.setWork_phase : (s.setWork w).phase = s.phase := rfl
@[simp] theorem State.setWork_op : (s.setWork w).op = s.op := rfl
@[simp] theorem State.setWork_inBuf : (s.setWork w).inBuf = s.inBuf := rfl
@[simp] theorem State.setWork_outBuf : (s.setWork w).outBuf = s.outBuf := rfl
@[simp] theorem State.setWork_maxInLen : (s.setWork w).maxInLen = s.maxInLen := rfl
@[simp] theorem State.setWork_sub : (s.setWork w).sub = s.sub := rfl
@[simp] theorem State.setWork_hArg : (s.setWork w).hArg = s.hArg := rfl
@[simp] theorem State.setWork_bArg : (s.setWork w).bArg = s.bArg := rfl
@[simp] theorem State.setWork_endArg : (s.setWork w).endArg = s.endArg := rfl
@[simp] theorem State.setWork_hostQ : (s.setWork w).hostQ = s.hostQ := rfl
@[simp] theorem State.setWork_hostData : (s.setWork w).hostData = s.hostData := rfl
@[simp] theorem State.setWork_draws : (s.setWork w).draws = s.draws := rfl

@[simp] theorem State.setWork_setWork (w' : Work) : (s.setWork w').setWork w = s.setWork w := rfl
@[simp] theorem State.setWork_self : s.setWork s.work = s := rfl

@[simp] theorem State.setPhase_work : (s.setPhase p).work = s.work := rfl
@[simp] theorem State.setPhase_status : (s.setPhase p).status = s.status := rfl
@[simp] theorem State.setPhase_inLen : (s.setPhase p).inLen = s.inLen := rfl
@[simp] theorem State.setPhase_outLen : (s.setPhase p).outLen = s.outLen := rfl
@[simp] theorem State.setPhase_outCap : (s.setPhase p).outCap = s.outCap := rfl
@[simp] theorem State.setPhase_inOk : (s.setPhase p).inOk = s.inOk := rfl
@[simp] theorem State.setPhase_cmd : (s.setPhase p).cmd = s.cmd := rfl
@[simp] theorem State.setPhase_phase : (s.setPhase p).phase = p := rfl
@[simp] theorem State.setPhase_op : (s.setPhase p).op = s.op := rfl
@[simp] theorem State.setPhase_inBuf : (s.setPhase p).inBuf = s.inBuf := rfl
@[simp] theorem State.setPhase_outBuf : (s.setPhase p).outBuf = s.outBuf := rfl
@[simp] theorem State.setPhase_maxInLen : (s.setPhase p).maxInLen = s.maxInLen := rfl
@[simp] theorem State.setPhase_sub : (s.setPhase p).sub = s.sub := rfl
@[simp] theorem State.setPhase_hArg : (s.setPhase p).hArg = s.hArg := rfl
@[simp] theorem State.setPhase_bArg : (s.setPhase p).bArg = s.bArg := rfl
@[simp] theorem State.setPhase_endArg : (s.setPhase p).endArg = s.endArg := rfl
@[simp] theorem State.setPhase_hostQ : (s.setPhase p).hostQ = s.hostQ := rfl
@[simp] theorem State.setPhase_hostData : (s.setPhase p).hostData = s.hostData := rfl
@[simp] theorem State.setPhase_draws : (s.setPhase p).draws = s.draws := rfl

@[simp] theorem State.setOut_work : (s.setOut m len).work = s.work := rfl
@[simp] theorem State.setOut_status : (s.setOut m len).status = s.status := rfl
@[simp] theorem State.setOut_inLen : (s.setOut m len).inLen = s.inLen := rfl
@[simp] theorem State.setOut_outLen : (s.setOut m len).outLen = len := rfl
@[simp] theorem State.setOut_outCap : (s.setOut m len).outCap = s.outCap := rfl
@[simp] theorem State.setOut_inOk : (s.setOut m len).inOk = s.inOk := rfl
@[simp] theorem State.setOut_cmd : (s.setOut m len).cmd = s.cmd := rfl
@[simp] theorem State.setOut_phase : (s.setOut m len).phase = s.phase := rfl
@[simp] theorem State.setOut_op : (s.setOut m len).op = s.op := rfl
@[simp] theorem State.setOut_inBuf : (s.setOut m len).inBuf = s.inBuf := rfl
@[simp] theorem State.setOut_outBuf : (s.setOut m len).outBuf = m := rfl
@[simp] theorem State.setOut_maxInLen : (s.setOut m len).maxInLen = s.maxInLen := rfl
@[simp] theorem State.setOut_sub : (s.setOut m len).sub = s.sub := rfl
@[simp] theorem State.setOut_hArg : (s.setOut m len).hArg = s.hArg := rfl
@[simp] theorem State.setOut_bArg : (s.setOut m len).bArg = s.bArg := rfl
@[simp] theorem State.setOut_endArg : (s.setOut m len).endArg = s.endArg := rfl
@[simp] theorem State.setOut_hostQ : (s.setOut m len).hostQ = s.hostQ := rfl
@[simp] theorem State.setOut_hostData : (s.setOut m len).hostData = s.hostData := rfl
@[simp] theorem State.setOut_draws : (s.setOut m len).draws = s.draws := rfl

@[simp] theorem State.countDraw_work : s.countDraw.work = s.work := rfl
@[simp] theorem State.countDraw_status : s.countDraw.status = s.status := rfl
@[simp] theorem State.countDraw_inLen : s.countDraw.inLen = s.inLen := rfl
@[simp] theorem State.countDraw_outLen : s.countDraw.outLen = s.outLen := rfl
@[simp] theorem State.countDraw_outCap : s.countDraw.outCap = s.outCap := rfl
@[simp] theorem State.countDraw_inOk : s.countDraw.inOk = s.inOk := rfl
@[simp] theorem State.countDraw_cmd : s.countDraw.cmd = s.cmd := rfl
@[simp] theorem State.countDraw_phase : s.countDraw.phase = s.phase := rfl
@[simp] theorem State.countDraw_op : s.countDraw.op = s.op := rfl
@[simp] theorem State.countDraw_inBuf : s.countDraw.inBuf = s.inBuf := rfl
@[simp] theorem State.countDraw_outBuf : s.countDraw.outBuf = s.outBuf := rfl
@[simp] theorem State.countDraw_maxInLen : s.countDraw.maxInLen = s.maxInLen := rfl
@[simp] theorem State.countDraw_sub : s.countDraw.sub = s.sub := rfl
@[simp] theorem State.countDraw_hArg : s.countDraw.hArg = s.hArg := rfl
@[simp] theorem State.countDraw_bArg : s.countDraw.bArg = s.bArg := rfl
@[simp] theorem State.countDraw_endArg : s.countDraw.endArg = s.endArg := rfl
@[simp] theorem State.countDraw_hostQ : s.countDraw.hostQ = s.hostQ := rfl
@[simp] theorem State.countDraw_hostData : s.countDraw.hostData = s.hostData := rfl

@[simp] theorem putWork_eq : putWork w s = .ok () (s.setWork w) := rfl
@[simp] theorem setIptr_eq : setIptr v s = s.setWork (s.work.setIptr v) := rfl
@[simp] theorem setScan_eq : setScan k s = s.setWork (s.work.setScan k) := rfl

@[simp] theorem gotoEnd_work : (gotoEnd c s).work = s.work := rfl
@[simp] theorem gotoEnd_status : (gotoEnd c s).status = s.status := rfl
@[simp] theorem gotoEnd_inLen : (gotoEnd c s).inLen = s.inLen := rfl
@[simp] theorem gotoEnd_outLen : (gotoEnd c s).outLen = s.outLen := rfl
@[simp] theorem gotoEnd_outCap : (gotoEnd c s).outCap = s.outCap := rfl
@[simp] theorem gotoEnd_inOk : (gotoEnd c s).inOk = s.inOk := rfl
@[simp] theorem gotoEnd_cmd : (gotoEnd c s).cmd = s.cmd := rfl
@[simp] theorem gotoEnd_phase : (gotoEnd c s).phase = 0x1F := rfl
@[simp] theorem gotoEnd_op : (gotoEnd c s).op = s.op := rfl
@[simp] theorem gotoEnd_inBuf : (gotoEnd c s).inBuf = s.inBuf := rfl
@[simp] theorem gotoEnd_outBuf : (gotoEnd c s).outBuf = s.outBuf := rfl
@[simp] theorem gotoEnd_maxInLen : (gotoEnd c s).maxInLen = s.maxInLen := rfl
@[simp] theorem gotoEnd_sub : (gotoEnd c s).sub = s.sub := rfl
@[simp] theorem gotoEnd_hArg : (gotoEnd c s).hArg = s.hArg := rfl
@[simp] theorem gotoEnd_bArg : (gotoEnd c s).bArg = s.bArg := rfl
@[simp] theorem gotoEnd_endArg : (gotoEnd c s).endArg = c := rfl
@[simp] theorem gotoEnd_hostQ : (gotoEnd c s).hostQ = s.hostQ := rfl
@[simp] theorem gotoEnd_hostData : (gotoEnd c s).hostData = s.hostData := rfl
@[simp] theorem gotoEnd_draws : (gotoEnd c s).draws = s.draws := rfl

end Updates

/-! ### Fields of an updated working state -/

section WorkUpdates
variable (w : Work) (b : Byte) (i : NodeIx) (nd : Node) (v : Word) (x : BitVec 8) (y : BitVec 4)
  (z : BitVec 9) (u : BitVec 10) (q : BitVec 32) (c : Bit) (h : List NodeIx) (p : BitString)

@[simp] theorem Work.setScount_acc : (w.setScount q).acc = w.acc := rfl
@[simp] theorem Work.setScount_held : (w.setScount q).held = w.held := rfl
@[simp] theorem Work.setScount_wbits : (w.setScount q).wbits = w.wbits := rfl
@[simp] theorem Work.setScount_scount : (w.setScount q).scount = q := rfl
@[simp] theorem Work.setScount_vbits : (w.setScount q).vbits = w.vbits := rfl
@[simp] theorem Work.setScount_tbits : (w.setScount q).tbits = w.tbits := rfl
@[simp] theorem Work.setScount_pbase : (w.setScount q).pbase = w.pbase := rfl
@[simp] theorem Work.setScount_rbits : (w.setScount q).rbits = w.rbits := rfl
@[simp] theorem Work.setScount_bit : (w.setScount q).bit = w.bit := rfl
@[simp] theorem Work.setScount_cursor : (w.setScount q).cursor = w.cursor := rfl
@[simp] theorem Work.setScount_root : (w.setScount q).root = w.root := rfl
@[simp] theorem Work.setScount_nnodes : (w.setScount q).nnodes = w.nnodes := rfl
@[simp] theorem Work.setScount_hsize : (w.setScount q).hsize = w.hsize := rfl
@[simp] theorem Work.setScount_iptr : (w.setScount q).iptr = w.iptr := rfl
@[simp] theorem Work.setScount_scan : (w.setScount q).scan = w.scan := rfl
@[simp] theorem Work.setScount_freq : (w.setScount q).freq = w.freq := rfl
@[simp] theorem Work.setScount_node : (w.setScount q).node = w.node := rfl
@[simp] theorem Work.setScount_heap : (w.setScount q).heap = w.heap := rfl
@[simp] theorem Work.setScount_code : (w.setScount q).code = w.code := rfl

@[simp] theorem Work.setTbits_acc : (w.setTbits v).acc = w.acc := rfl
@[simp] theorem Work.setTbits_held : (w.setTbits v).held = w.held := rfl
@[simp] theorem Work.setTbits_wbits : (w.setTbits v).wbits = w.wbits := rfl
@[simp] theorem Work.setTbits_scount : (w.setTbits v).scount = w.scount := rfl
@[simp] theorem Work.setTbits_vbits : (w.setTbits v).vbits = w.vbits := rfl
@[simp] theorem Work.setTbits_tbits : (w.setTbits v).tbits = v := rfl
@[simp] theorem Work.setTbits_pbase : (w.setTbits v).pbase = w.pbase := rfl
@[simp] theorem Work.setTbits_rbits : (w.setTbits v).rbits = w.rbits := rfl
@[simp] theorem Work.setTbits_bit : (w.setTbits v).bit = w.bit := rfl
@[simp] theorem Work.setTbits_cursor : (w.setTbits v).cursor = w.cursor := rfl
@[simp] theorem Work.setTbits_root : (w.setTbits v).root = w.root := rfl
@[simp] theorem Work.setTbits_nnodes : (w.setTbits v).nnodes = w.nnodes := rfl
@[simp] theorem Work.setTbits_hsize : (w.setTbits v).hsize = w.hsize := rfl
@[simp] theorem Work.setTbits_iptr : (w.setTbits v).iptr = w.iptr := rfl
@[simp] theorem Work.setTbits_scan : (w.setTbits v).scan = w.scan := rfl
@[simp] theorem Work.setTbits_freq : (w.setTbits v).freq = w.freq := rfl
@[simp] theorem Work.setTbits_node : (w.setTbits v).node = w.node := rfl
@[simp] theorem Work.setTbits_heap : (w.setTbits v).heap = w.heap := rfl
@[simp] theorem Work.setTbits_code : (w.setTbits v).code = w.code := rfl

@[simp] theorem Work.setVbits_acc : (w.setVbits x).acc = w.acc := rfl
@[simp] theorem Work.setVbits_held : (w.setVbits x).held = w.held := rfl
@[simp] theorem Work.setVbits_wbits : (w.setVbits x).wbits = w.wbits := rfl
@[simp] theorem Work.setVbits_scount : (w.setVbits x).scount = w.scount := rfl
@[simp] theorem Work.setVbits_vbits : (w.setVbits x).vbits = x := rfl
@[simp] theorem Work.setVbits_tbits : (w.setVbits x).tbits = w.tbits := rfl
@[simp] theorem Work.setVbits_pbase : (w.setVbits x).pbase = w.pbase := rfl
@[simp] theorem Work.setVbits_rbits : (w.setVbits x).rbits = w.rbits := rfl
@[simp] theorem Work.setVbits_bit : (w.setVbits x).bit = w.bit := rfl
@[simp] theorem Work.setVbits_cursor : (w.setVbits x).cursor = w.cursor := rfl
@[simp] theorem Work.setVbits_root : (w.setVbits x).root = w.root := rfl
@[simp] theorem Work.setVbits_nnodes : (w.setVbits x).nnodes = w.nnodes := rfl
@[simp] theorem Work.setVbits_hsize : (w.setVbits x).hsize = w.hsize := rfl
@[simp] theorem Work.setVbits_iptr : (w.setVbits x).iptr = w.iptr := rfl
@[simp] theorem Work.setVbits_scan : (w.setVbits x).scan = w.scan := rfl
@[simp] theorem Work.setVbits_freq : (w.setVbits x).freq = w.freq := rfl
@[simp] theorem Work.setVbits_node : (w.setVbits x).node = w.node := rfl
@[simp] theorem Work.setVbits_heap : (w.setVbits x).heap = w.heap := rfl
@[simp] theorem Work.setVbits_code : (w.setVbits x).code = w.code := rfl

@[simp] theorem Work.setPbase_acc : (w.setPbase v).acc = w.acc := rfl
@[simp] theorem Work.setPbase_held : (w.setPbase v).held = w.held := rfl
@[simp] theorem Work.setPbase_wbits : (w.setPbase v).wbits = w.wbits := rfl
@[simp] theorem Work.setPbase_scount : (w.setPbase v).scount = w.scount := rfl
@[simp] theorem Work.setPbase_vbits : (w.setPbase v).vbits = w.vbits := rfl
@[simp] theorem Work.setPbase_tbits : (w.setPbase v).tbits = w.tbits := rfl
@[simp] theorem Work.setPbase_pbase : (w.setPbase v).pbase = v := rfl
@[simp] theorem Work.setPbase_rbits : (w.setPbase v).rbits = w.rbits := rfl
@[simp] theorem Work.setPbase_bit : (w.setPbase v).bit = w.bit := rfl
@[simp] theorem Work.setPbase_cursor : (w.setPbase v).cursor = w.cursor := rfl
@[simp] theorem Work.setPbase_root : (w.setPbase v).root = w.root := rfl
@[simp] theorem Work.setPbase_nnodes : (w.setPbase v).nnodes = w.nnodes := rfl
@[simp] theorem Work.setPbase_hsize : (w.setPbase v).hsize = w.hsize := rfl
@[simp] theorem Work.setPbase_iptr : (w.setPbase v).iptr = w.iptr := rfl
@[simp] theorem Work.setPbase_scan : (w.setPbase v).scan = w.scan := rfl
@[simp] theorem Work.setPbase_freq : (w.setPbase v).freq = w.freq := rfl
@[simp] theorem Work.setPbase_node : (w.setPbase v).node = w.node := rfl
@[simp] theorem Work.setPbase_heap : (w.setPbase v).heap = w.heap := rfl
@[simp] theorem Work.setPbase_code : (w.setPbase v).code = w.code := rfl

@[simp] theorem Work.setBit_acc : (w.setBit c v).acc = w.acc := rfl
@[simp] theorem Work.setBit_held : (w.setBit c v).held = w.held := rfl
@[simp] theorem Work.setBit_wbits : (w.setBit c v).wbits = w.wbits := rfl
@[simp] theorem Work.setBit_scount : (w.setBit c v).scount = w.scount := rfl
@[simp] theorem Work.setBit_vbits : (w.setBit c v).vbits = w.vbits := rfl
@[simp] theorem Work.setBit_tbits : (w.setBit c v).tbits = w.tbits := rfl
@[simp] theorem Work.setBit_pbase : (w.setBit c v).pbase = w.pbase := rfl
@[simp] theorem Work.setBit_rbits : (w.setBit c v).rbits = v := rfl
@[simp] theorem Work.setBit_bit : (w.setBit c v).bit = c := rfl
@[simp] theorem Work.setBit_cursor : (w.setBit c v).cursor = w.cursor := rfl
@[simp] theorem Work.setBit_root : (w.setBit c v).root = w.root := rfl
@[simp] theorem Work.setBit_nnodes : (w.setBit c v).nnodes = w.nnodes := rfl
@[simp] theorem Work.setBit_hsize : (w.setBit c v).hsize = w.hsize := rfl
@[simp] theorem Work.setBit_iptr : (w.setBit c v).iptr = w.iptr := rfl
@[simp] theorem Work.setBit_scan : (w.setBit c v).scan = w.scan := rfl
@[simp] theorem Work.setBit_freq : (w.setBit c v).freq = w.freq := rfl
@[simp] theorem Work.setBit_node : (w.setBit c v).node = w.node := rfl
@[simp] theorem Work.setBit_heap : (w.setBit c v).heap = w.heap := rfl
@[simp] theorem Work.setBit_code : (w.setBit c v).code = w.code := rfl

@[simp] theorem Work.setCursor_acc : (w.setCursor i).acc = w.acc := rfl
@[simp] theorem Work.setCursor_held : (w.setCursor i).held = w.held := rfl
@[simp] theorem Work.setCursor_wbits : (w.setCursor i).wbits = w.wbits := rfl
@[simp] theorem Work.setCursor_scount : (w.setCursor i).scount = w.scount := rfl
@[simp] theorem Work.setCursor_vbits : (w.setCursor i).vbits = w.vbits := rfl
@[simp] theorem Work.setCursor_tbits : (w.setCursor i).tbits = w.tbits := rfl
@[simp] theorem Work.setCursor_pbase : (w.setCursor i).pbase = w.pbase := rfl
@[simp] theorem Work.setCursor_rbits : (w.setCursor i).rbits = w.rbits := rfl
@[simp] theorem Work.setCursor_bit : (w.setCursor i).bit = w.bit := rfl
@[simp] theorem Work.setCursor_cursor : (w.setCursor i).cursor = i := rfl
@[simp] theorem Work.setCursor_root : (w.setCursor i).root = w.root := rfl
@[simp] theorem Work.setCursor_nnodes : (w.setCursor i).nnodes = w.nnodes := rfl
@[simp] theorem Work.setCursor_hsize : (w.setCursor i).hsize = w.hsize := rfl
@[simp] theorem Work.setCursor_iptr : (w.setCursor i).iptr = w.iptr := rfl
@[simp] theorem Work.setCursor_scan : (w.setCursor i).scan = w.scan := rfl
@[simp] theorem Work.setCursor_freq : (w.setCursor i).freq = w.freq := rfl
@[simp] theorem Work.setCursor_node : (w.setCursor i).node = w.node := rfl
@[simp] theorem Work.setCursor_heap : (w.setCursor i).heap = w.heap := rfl
@[simp] theorem Work.setCursor_code : (w.setCursor i).code = w.code := rfl

@[simp] theorem Work.setRoot_acc : (w.setRoot i).acc = w.acc := rfl
@[simp] theorem Work.setRoot_held : (w.setRoot i).held = w.held := rfl
@[simp] theorem Work.setRoot_wbits : (w.setRoot i).wbits = w.wbits := rfl
@[simp] theorem Work.setRoot_scount : (w.setRoot i).scount = w.scount := rfl
@[simp] theorem Work.setRoot_vbits : (w.setRoot i).vbits = w.vbits := rfl
@[simp] theorem Work.setRoot_tbits : (w.setRoot i).tbits = w.tbits := rfl
@[simp] theorem Work.setRoot_pbase : (w.setRoot i).pbase = w.pbase := rfl
@[simp] theorem Work.setRoot_rbits : (w.setRoot i).rbits = w.rbits := rfl
@[simp] theorem Work.setRoot_bit : (w.setRoot i).bit = w.bit := rfl
@[simp] theorem Work.setRoot_cursor : (w.setRoot i).cursor = w.cursor := rfl
@[simp] theorem Work.setRoot_root : (w.setRoot i).root = i := rfl
@[simp] theorem Work.setRoot_nnodes : (w.setRoot i).nnodes = w.nnodes := rfl
@[simp] theorem Work.setRoot_hsize : (w.setRoot i).hsize = w.hsize := rfl
@[simp] theorem Work.setRoot_iptr : (w.setRoot i).iptr = w.iptr := rfl
@[simp] theorem Work.setRoot_scan : (w.setRoot i).scan = w.scan := rfl
@[simp] theorem Work.setRoot_freq : (w.setRoot i).freq = w.freq := rfl
@[simp] theorem Work.setRoot_node : (w.setRoot i).node = w.node := rfl
@[simp] theorem Work.setRoot_heap : (w.setRoot i).heap = w.heap := rfl
@[simp] theorem Work.setRoot_code : (w.setRoot i).code = w.code := rfl

@[simp] theorem Work.setNnodes_acc : (w.setNnodes u).acc = w.acc := rfl
@[simp] theorem Work.setNnodes_held : (w.setNnodes u).held = w.held := rfl
@[simp] theorem Work.setNnodes_wbits : (w.setNnodes u).wbits = w.wbits := rfl
@[simp] theorem Work.setNnodes_scount : (w.setNnodes u).scount = w.scount := rfl
@[simp] theorem Work.setNnodes_vbits : (w.setNnodes u).vbits = w.vbits := rfl
@[simp] theorem Work.setNnodes_tbits : (w.setNnodes u).tbits = w.tbits := rfl
@[simp] theorem Work.setNnodes_pbase : (w.setNnodes u).pbase = w.pbase := rfl
@[simp] theorem Work.setNnodes_rbits : (w.setNnodes u).rbits = w.rbits := rfl
@[simp] theorem Work.setNnodes_bit : (w.setNnodes u).bit = w.bit := rfl
@[simp] theorem Work.setNnodes_cursor : (w.setNnodes u).cursor = w.cursor := rfl
@[simp] theorem Work.setNnodes_root : (w.setNnodes u).root = w.root := rfl
@[simp] theorem Work.setNnodes_nnodes : (w.setNnodes u).nnodes = u := rfl
@[simp] theorem Work.setNnodes_hsize : (w.setNnodes u).hsize = w.hsize := rfl
@[simp] theorem Work.setNnodes_iptr : (w.setNnodes u).iptr = w.iptr := rfl
@[simp] theorem Work.setNnodes_scan : (w.setNnodes u).scan = w.scan := rfl
@[simp] theorem Work.setNnodes_freq : (w.setNnodes u).freq = w.freq := rfl
@[simp] theorem Work.setNnodes_node : (w.setNnodes u).node = w.node := rfl
@[simp] theorem Work.setNnodes_heap : (w.setNnodes u).heap = w.heap := rfl
@[simp] theorem Work.setNnodes_code : (w.setNnodes u).code = w.code := rfl

@[simp] theorem Work.setHeap_acc : (w.setHeap h z).acc = w.acc := rfl
@[simp] theorem Work.setHeap_held : (w.setHeap h z).held = w.held := rfl
@[simp] theorem Work.setHeap_wbits : (w.setHeap h z).wbits = w.wbits := rfl
@[simp] theorem Work.setHeap_scount : (w.setHeap h z).scount = w.scount := rfl
@[simp] theorem Work.setHeap_vbits : (w.setHeap h z).vbits = w.vbits := rfl
@[simp] theorem Work.setHeap_tbits : (w.setHeap h z).tbits = w.tbits := rfl
@[simp] theorem Work.setHeap_pbase : (w.setHeap h z).pbase = w.pbase := rfl
@[simp] theorem Work.setHeap_rbits : (w.setHeap h z).rbits = w.rbits := rfl
@[simp] theorem Work.setHeap_bit : (w.setHeap h z).bit = w.bit := rfl
@[simp] theorem Work.setHeap_cursor : (w.setHeap h z).cursor = w.cursor := rfl
@[simp] theorem Work.setHeap_root : (w.setHeap h z).root = w.root := rfl
@[simp] theorem Work.setHeap_nnodes : (w.setHeap h z).nnodes = w.nnodes := rfl
@[simp] theorem Work.setHeap_hsize : (w.setHeap h z).hsize = z := rfl
@[simp] theorem Work.setHeap_iptr : (w.setHeap h z).iptr = w.iptr := rfl
@[simp] theorem Work.setHeap_scan : (w.setHeap h z).scan = w.scan := rfl
@[simp] theorem Work.setHeap_freq : (w.setHeap h z).freq = w.freq := rfl
@[simp] theorem Work.setHeap_node : (w.setHeap h z).node = w.node := rfl
@[simp] theorem Work.setHeap_heap : (w.setHeap h z).heap = h := rfl
@[simp] theorem Work.setHeap_code : (w.setHeap h z).code = w.code := rfl

@[simp] theorem Work.setAcc_acc : (w.setAcc x y).acc = x := rfl
@[simp] theorem Work.setAcc_held : (w.setAcc x y).held = y := rfl
@[simp] theorem Work.setAcc_wbits : (w.setAcc x y).wbits = w.wbits := rfl
@[simp] theorem Work.setAcc_scount : (w.setAcc x y).scount = w.scount := rfl
@[simp] theorem Work.setAcc_vbits : (w.setAcc x y).vbits = w.vbits := rfl
@[simp] theorem Work.setAcc_tbits : (w.setAcc x y).tbits = w.tbits := rfl
@[simp] theorem Work.setAcc_pbase : (w.setAcc x y).pbase = w.pbase := rfl
@[simp] theorem Work.setAcc_rbits : (w.setAcc x y).rbits = w.rbits := rfl
@[simp] theorem Work.setAcc_bit : (w.setAcc x y).bit = w.bit := rfl
@[simp] theorem Work.setAcc_cursor : (w.setAcc x y).cursor = w.cursor := rfl
@[simp] theorem Work.setAcc_root : (w.setAcc x y).root = w.root := rfl
@[simp] theorem Work.setAcc_nnodes : (w.setAcc x y).nnodes = w.nnodes := rfl
@[simp] theorem Work.setAcc_hsize : (w.setAcc x y).hsize = w.hsize := rfl
@[simp] theorem Work.setAcc_iptr : (w.setAcc x y).iptr = w.iptr := rfl
@[simp] theorem Work.setAcc_scan : (w.setAcc x y).scan = w.scan := rfl
@[simp] theorem Work.setAcc_freq : (w.setAcc x y).freq = w.freq := rfl
@[simp] theorem Work.setAcc_node : (w.setAcc x y).node = w.node := rfl
@[simp] theorem Work.setAcc_heap : (w.setAcc x y).heap = w.heap := rfl
@[simp] theorem Work.setAcc_code : (w.setAcc x y).code = w.code := rfl

@[simp] theorem Work.setWbits_acc : (w.setWbits v).acc = w.acc := rfl
@[simp] theorem Work.setWbits_held : (w.setWbits v).held = w.held := rfl
@[simp] theorem Work.setWbits_wbits : (w.setWbits v).wbits = v := rfl
@[simp] theorem Work.setWbits_scount : (w.setWbits v).scount = w.scount := rfl
@[simp] theorem Work.setWbits_vbits : (w.setWbits v).vbits = w.vbits := rfl
@[simp] theorem Work.setWbits_tbits : (w.setWbits v).tbits = w.tbits := rfl
@[simp] theorem Work.setWbits_pbase : (w.setWbits v).pbase = w.pbase := rfl
@[simp] theorem Work.setWbits_rbits : (w.setWbits v).rbits = w.rbits := rfl
@[simp] theorem Work.setWbits_bit : (w.setWbits v).bit = w.bit := rfl
@[simp] theorem Work.setWbits_cursor : (w.setWbits v).cursor = w.cursor := rfl
@[simp] theorem Work.setWbits_root : (w.setWbits v).root = w.root := rfl
@[simp] theorem Work.setWbits_nnodes : (w.setWbits v).nnodes = w.nnodes := rfl
@[simp] theorem Work.setWbits_hsize : (w.setWbits v).hsize = w.hsize := rfl
@[simp] theorem Work.setWbits_iptr : (w.setWbits v).iptr = w.iptr := rfl
@[simp] theorem Work.setWbits_scan : (w.setWbits v).scan = w.scan := rfl
@[simp] theorem Work.setWbits_freq : (w.setWbits v).freq = w.freq := rfl
@[simp] theorem Work.setWbits_node : (w.setWbits v).node = w.node := rfl
@[simp] theorem Work.setWbits_heap : (w.setWbits v).heap = w.heap := rfl
@[simp] theorem Work.setWbits_code : (w.setWbits v).code = w.code := rfl

@[simp] theorem Work.setIptr_acc : (w.setIptr v).acc = w.acc := rfl
@[simp] theorem Work.setIptr_held : (w.setIptr v).held = w.held := rfl
@[simp] theorem Work.setIptr_wbits : (w.setIptr v).wbits = w.wbits := rfl
@[simp] theorem Work.setIptr_scount : (w.setIptr v).scount = w.scount := rfl
@[simp] theorem Work.setIptr_vbits : (w.setIptr v).vbits = w.vbits := rfl
@[simp] theorem Work.setIptr_tbits : (w.setIptr v).tbits = w.tbits := rfl
@[simp] theorem Work.setIptr_pbase : (w.setIptr v).pbase = w.pbase := rfl
@[simp] theorem Work.setIptr_rbits : (w.setIptr v).rbits = w.rbits := rfl
@[simp] theorem Work.setIptr_bit : (w.setIptr v).bit = w.bit := rfl
@[simp] theorem Work.setIptr_cursor : (w.setIptr v).cursor = w.cursor := rfl
@[simp] theorem Work.setIptr_root : (w.setIptr v).root = w.root := rfl
@[simp] theorem Work.setIptr_nnodes : (w.setIptr v).nnodes = w.nnodes := rfl
@[simp] theorem Work.setIptr_hsize : (w.setIptr v).hsize = w.hsize := rfl
@[simp] theorem Work.setIptr_iptr : (w.setIptr v).iptr = v := rfl
@[simp] theorem Work.setIptr_scan : (w.setIptr v).scan = w.scan := rfl
@[simp] theorem Work.setIptr_freq : (w.setIptr v).freq = w.freq := rfl
@[simp] theorem Work.setIptr_node : (w.setIptr v).node = w.node := rfl
@[simp] theorem Work.setIptr_heap : (w.setIptr v).heap = w.heap := rfl
@[simp] theorem Work.setIptr_code : (w.setIptr v).code = w.code := rfl

@[simp] theorem Work.setScan_acc : (w.setScan z).acc = w.acc := rfl
@[simp] theorem Work.setScan_held : (w.setScan z).held = w.held := rfl
@[simp] theorem Work.setScan_wbits : (w.setScan z).wbits = w.wbits := rfl
@[simp] theorem Work.setScan_scount : (w.setScan z).scount = w.scount := rfl
@[simp] theorem Work.setScan_vbits : (w.setScan z).vbits = w.vbits := rfl
@[simp] theorem Work.setScan_tbits : (w.setScan z).tbits = w.tbits := rfl
@[simp] theorem Work.setScan_pbase : (w.setScan z).pbase = w.pbase := rfl
@[simp] theorem Work.setScan_rbits : (w.setScan z).rbits = w.rbits := rfl
@[simp] theorem Work.setScan_bit : (w.setScan z).bit = w.bit := rfl
@[simp] theorem Work.setScan_cursor : (w.setScan z).cursor = w.cursor := rfl
@[simp] theorem Work.setScan_root : (w.setScan z).root = w.root := rfl
@[simp] theorem Work.setScan_nnodes : (w.setScan z).nnodes = w.nnodes := rfl
@[simp] theorem Work.setScan_hsize : (w.setScan z).hsize = w.hsize := rfl
@[simp] theorem Work.setScan_iptr : (w.setScan z).iptr = w.iptr := rfl
@[simp] theorem Work.setScan_scan : (w.setScan z).scan = z := rfl
@[simp] theorem Work.setScan_freq : (w.setScan z).freq = w.freq := rfl
@[simp] theorem Work.setScan_node : (w.setScan z).node = w.node := rfl
@[simp] theorem Work.setScan_heap : (w.setScan z).heap = w.heap := rfl
@[simp] theorem Work.setScan_code : (w.setScan z).code = w.code := rfl

@[simp] theorem Work.setFreq_acc : (w.setFreq b v).acc = w.acc := rfl
@[simp] theorem Work.setFreq_held : (w.setFreq b v).held = w.held := rfl
@[simp] theorem Work.setFreq_wbits : (w.setFreq b v).wbits = w.wbits := rfl
@[simp] theorem Work.setFreq_scount : (w.setFreq b v).scount = w.scount := rfl
@[simp] theorem Work.setFreq_vbits : (w.setFreq b v).vbits = w.vbits := rfl
@[simp] theorem Work.setFreq_tbits : (w.setFreq b v).tbits = w.tbits := rfl
@[simp] theorem Work.setFreq_pbase : (w.setFreq b v).pbase = w.pbase := rfl
@[simp] theorem Work.setFreq_rbits : (w.setFreq b v).rbits = w.rbits := rfl
@[simp] theorem Work.setFreq_bit : (w.setFreq b v).bit = w.bit := rfl
@[simp] theorem Work.setFreq_cursor : (w.setFreq b v).cursor = w.cursor := rfl
@[simp] theorem Work.setFreq_root : (w.setFreq b v).root = w.root := rfl
@[simp] theorem Work.setFreq_nnodes : (w.setFreq b v).nnodes = w.nnodes := rfl
@[simp] theorem Work.setFreq_hsize : (w.setFreq b v).hsize = w.hsize := rfl
@[simp] theorem Work.setFreq_iptr : (w.setFreq b v).iptr = w.iptr := rfl
@[simp] theorem Work.setFreq_scan : (w.setFreq b v).scan = w.scan := rfl
@[simp] theorem Work.setFreq_node : (w.setFreq b v).node = w.node := rfl
@[simp] theorem Work.setFreq_heap : (w.setFreq b v).heap = w.heap := rfl
@[simp] theorem Work.setFreq_code : (w.setFreq b v).code = w.code := rfl

@[simp] theorem Work.setCode_acc : (w.setCode b p).acc = w.acc := rfl
@[simp] theorem Work.setCode_held : (w.setCode b p).held = w.held := rfl
@[simp] theorem Work.setCode_wbits : (w.setCode b p).wbits = w.wbits := rfl
@[simp] theorem Work.setCode_scount : (w.setCode b p).scount = w.scount := rfl
@[simp] theorem Work.setCode_vbits : (w.setCode b p).vbits = w.vbits := rfl
@[simp] theorem Work.setCode_tbits : (w.setCode b p).tbits = w.tbits := rfl
@[simp] theorem Work.setCode_pbase : (w.setCode b p).pbase = w.pbase := rfl
@[simp] theorem Work.setCode_rbits : (w.setCode b p).rbits = w.rbits := rfl
@[simp] theorem Work.setCode_bit : (w.setCode b p).bit = w.bit := rfl
@[simp] theorem Work.setCode_cursor : (w.setCode b p).cursor = w.cursor := rfl
@[simp] theorem Work.setCode_root : (w.setCode b p).root = w.root := rfl
@[simp] theorem Work.setCode_nnodes : (w.setCode b p).nnodes = w.nnodes := rfl
@[simp] theorem Work.setCode_hsize : (w.setCode b p).hsize = w.hsize := rfl
@[simp] theorem Work.setCode_iptr : (w.setCode b p).iptr = w.iptr := rfl
@[simp] theorem Work.setCode_scan : (w.setCode b p).scan = w.scan := rfl
@[simp] theorem Work.setCode_freq : (w.setCode b p).freq = w.freq := rfl
@[simp] theorem Work.setCode_node : (w.setCode b p).node = w.node := rfl
@[simp] theorem Work.setCode_heap : (w.setCode b p).heap = w.heap := rfl

@[simp] theorem Work.setNode_acc : (w.setNode i nd).acc = w.acc := rfl
@[simp] theorem Work.setNode_held : (w.setNode i nd).held = w.held := rfl
@[simp] theorem Work.setNode_wbits : (w.setNode i nd).wbits = w.wbits := rfl
@[simp] theorem Work.setNode_scount : (w.setNode i nd).scount = w.scount := rfl
@[simp] theorem Work.setNode_vbits : (w.setNode i nd).vbits = w.vbits := rfl
@[simp] theorem Work.setNode_tbits : (w.setNode i nd).tbits = w.tbits := rfl
@[simp] theorem Work.setNode_pbase : (w.setNode i nd).pbase = w.pbase := rfl
@[simp] theorem Work.setNode_rbits : (w.setNode i nd).rbits = w.rbits := rfl
@[simp] theorem Work.setNode_bit : (w.setNode i nd).bit = w.bit := rfl
@[simp] theorem Work.setNode_cursor : (w.setNode i nd).cursor = w.cursor := rfl
@[simp] theorem Work.setNode_root : (w.setNode i nd).root = w.root := rfl
@[simp] theorem Work.setNode_nnodes : (w.setNode i nd).nnodes = w.nnodes := rfl
@[simp] theorem Work.setNode_hsize : (w.setNode i nd).hsize = w.hsize := rfl
@[simp] theorem Work.setNode_iptr : (w.setNode i nd).iptr = w.iptr := rfl
@[simp] theorem Work.setNode_scan : (w.setNode i nd).scan = w.scan := rfl
@[simp] theorem Work.setNode_freq : (w.setNode i nd).freq = w.freq := rfl
@[simp] theorem Work.setNode_heap : (w.setNode i nd).heap = w.heap := rfl
@[simp] theorem Work.setNode_code : (w.setNode i nd).code = w.code := rfl

@[simp] theorem Work.setHeap_setHeap (h' : List NodeIx) (z' : BitVec 9) :
    (w.setHeap h' z').setHeap h z = w.setHeap h z := rfl

end WorkUpdates

/-! ### Results -/

section Results
variable {α β : Type} (a : α) (s : State) (e : Raise) (f : Fault) (k : α → State → Res β)

@[simp] theorem Res.bind_ok : (Res.ok a s).bind k = k a s := rfl
@[simp] theorem Res.bind_raise : (Res.raise e s : Res α).bind k = .raise e s := rfl
@[simp] theorem Res.bind_stop : (Res.stop f : Res α).bind k = .stop f := rfl

/-- A sequence completes exactly where its first part does and then its second. -/
theorem Res.bind_eq_ok {r : Res α} {b : β} {t : State} :
    r.bind k = .ok b t ↔ ∃ a u, r = .ok a u ∧ k a u = .ok b t := by
  cases r <;> simp [Res.bind]

/-- A sequence raises where its first part does, or where that completes and the second part raises. -/
theorem Res.bind_eq_raise {r : Res α} {t : State} :
    r.bind k = .raise e t ↔ r = .raise e t ∨ ∃ a u, r = .ok a u ∧ k a u = .raise e t := by
  cases r <;> simp [Res.bind]

/-- A sequence stops where its first part does, or where that completes and the second part stops. -/
theorem Res.bind_eq_stop {r : Res α} :
    r.bind k = .stop f ↔ r = .stop f ∨ ∃ a u, r = .ok a u ∧ k a u = .stop f := by
  cases r <;> simp [Res.bind]

end Results

@[simp] theorem forEach_nil {α : Type} (body : α → State → Res Unit) (s : State) :
    forEach [] body s = .ok () s := rfl

@[simp] theorem forEach_cons {α : Type} (x : α) (xs : List α) (body : α → State → Res Unit) (s : State) :
    forEach (x :: xs) body s = (body x s).bind fun _ t => forEach xs body t := rfl

/-- A loop keeps whatever each of its turns keeps, whichever way it ends. -/
theorem forEach_keeps {α : Type} {P : State → Prop} {body : α → State → Res Unit}
    (hok : ∀ x s t, P s → body x s = .ok () t → P t) (xs : List α) (s t : State) (hs : P s)
    (h : forEach xs body s = .ok () t) : P t := by
  induction xs generalizing s with
  | nil => cases h; exact hs
  | cons x xs ih =>
    obtain ⟨_, u, hu, h'⟩ := (Res.bind_eq_ok _).1 h
    exact ih u (hok x s u hs hu) h'

end Sys2Proof.Machine
end

