-- ==== Sys2Proof/Laws/Memory.lean ====
section
/-! SUPPORT. The laws of the byte buffers: read after write, and the canonical form. -/

namespace Sys2Proof.Machine

/-- A read after a write to the same offset gives the byte written. -/
@[simp] theorem Memory.read_write_same (m : Memory) (a : Nat) (b : Byte) : (m.write a b).read a = some b := by
  induction m with
  | nil => simp [Memory.write, Memory.read]
  | cons c rest ih =>
    unfold Memory.write
    split
    · simp [Memory.read]
    · split
      · simp [Memory.read]
      · next h => simp [Memory.read, h, ih]

/-- A write leaves every other offset alone. -/
theorem Memory.read_write_ne (m : Memory) {a a' : Nat} (b : Byte) (h : a' ≠ a) :
    (m.write a b).read a' = m.read a' := by
  induction m with
  | nil => simp [Memory.write, Memory.read, Ne.symm h]
  | cons c rest ih =>
    unfold Memory.write
    split
    · simp [Memory.read, Ne.symm h]
    · split
      · next hc => subst hc; simp [Memory.read, Ne.symm h]
      · simp [Memory.read, ih]

/-- The canonical form, said of the offsets. -/
theorem Memory.wf_iff (m : Memory) : m.wf = true ↔ (m.map Prod.fst).Pairwise (· < ·) := by
  induction m with
  | nil => simp [Memory.wf]
  | cons c rest ih =>
    cases rest with
    | nil => simp [Memory.wf]
    | cons d rest =>
      rw [Memory.wf, Bool.and_eq_true, ih, decide_eq_true_iff]
      simp only [List.map_cons, List.pairwise_cons, List.mem_cons, forall_eq_or_imp]
      constructor
      · rintro ⟨h, h1, h2⟩
        exact ⟨⟨h, fun x hx => h.trans (h1 x hx)⟩, h1, h2⟩
      · rintro ⟨⟨h, _⟩, h1, h2⟩
        exact ⟨h, h1, h2⟩

/-- A write adds no offset but its own. -/
theorem Memory.mem_write {m : Memory} {a : Nat} {b : Byte} {x : Nat} :
    x ∈ (m.write a b).map Prod.fst → x = a ∨ x ∈ m.map Prod.fst := by
  induction m with
  | nil => simp [Memory.write]
  | cons c rest ih =>
    unfold Memory.write
    split
    · simp
    · split
      · simp; tauto
      · simp only [List.map_cons, List.mem_cons]
        rintro (h | h)
        · exact .inr (.inl h)
        · exact (ih h).imp_right .inr

/-- Every write keeps the canonical form. -/
theorem Memory.wf_write {m : Memory} (a : Nat) (b : Byte) (h : m.wf = true) : (m.write a b).wf = true := by
  rw [Memory.wf_iff] at h ⊢
  induction m with
  | nil => simp [Memory.write]
  | cons c rest ih =>
    rw [List.map_cons, List.pairwise_cons] at h
    unfold Memory.write
    split
    · next hlt =>
      simp only [List.map_cons, List.pairwise_cons, List.mem_cons, forall_eq_or_imp]
      exact ⟨⟨hlt, fun x hx => hlt.trans (h.1 x hx)⟩, h.1, h.2⟩
    · split
      · next heq => subst heq; simpa using h
      · next hnl hne =>
        rw [List.map_cons, List.pairwise_cons]
        refine ⟨fun x hx => ?_, ih h.2⟩
        rcases Memory.mem_write hx with rfl | hx
        · omega
        · exact h.1 x hx

end Sys2Proof.Machine
end

