-- ==== Sys2Proof/Laws/Ops.lean ====
section
/-! SUPPORT. One lemma for each shared operation that says everything it can do. -/

namespace Sys2Proof.Machine

open Sys2Proof.Safety

/-- `GetIn` has no side effect and no raise (R57). -/
theorem getIn_eq_ok {a : Nat} {s t : State} {b : Byte} :
    getIn a s = .ok b t ↔ a < s.inLen.toNat ∧ s.inBuf.read a = some b ∧ t = s := by
  unfold getIn
  split
  · next h =>
    split
    · next c hc => simp [hc, h, eq_comm]
    · next hc => simp [hc]
  · next h => simp [h]

theorem getIn_ne_raise {a : Nat} {s t : State} {e : Raise} : getIn a s ≠ .raise e t := by
  unfold getIn
  repeat' split
  all_goals simp

/-- `GetIn` inside IN with IN filled gives its byte. -/
theorem getIn_of_read {a : Nat} {s : State} {b : Byte} (h : a < s.inLen.toNat) (hb : s.inBuf.read a = some b) :
    getIn a s = .ok b s := getIn_eq_ok.2 ⟨h, hb, rfl⟩

/-- `MemRead` of IN has no side effect (R14). -/
theorem memReadIn_ok_state {n a v : Nat} {s t : State} (h : memReadIn n a s = .ok v t) : t = s := by
  induction n generalizing a v s t with
  | zero => cases h; rfl
  | succ n ih =>
    simp only [memReadIn, Res.bind_eq_ok, getIn_eq_ok] at h
    obtain ⟨b, u, ⟨-, -, rfl⟩, v', u', hv, h⟩ := h
    cases ih hv
    cases h; rfl

theorem memReadIn_ne_raise {n a : Nat} {s t : State} {e : Raise} : memReadIn n a s ≠ .raise e t := by
  induction n generalizing a s t with
  | zero => simp [memReadIn]
  | succ n ih =>
    intro h
    simp only [memReadIn, Res.bind_eq_raise] at h
    rcases h with h | ⟨b, u, _, h | ⟨v, u', _, h⟩⟩
    · exact getIn_ne_raise h
    · exact ih h
    · cases h

/-- The value `MemRead` gives fits its bytes (R14). -/
theorem memReadIn_lt {n a v : Nat} {s t : State} (h : memReadIn n a s = .ok v t) : v < 256 ^ n := by
  induction n generalizing a v s t with
  | zero => cases h; simp
  | succ n ih =>
    simp only [memReadIn, Res.bind_eq_ok] at h
    obtain ⟨b, u, -, v', u', hv, h⟩ := h
    cases h
    have := ih hv
    have hb := b.isLt
    rw [pow_succ]
    omega

/-- `PutOut` appends one byte where OUT has room (R58). -/
theorem putOut_of_room {b : Byte} {s : State} (h : s.outLen.toNat < s.outCap.toNat) :
    putOut b s = .ok () (s.setOut (s.outBuf.write s.outLen.toNat b) (s.outLen + 1)) := by
  unfold putOut
  rw [if_neg (by omega)]

/-- `PutOut` raises IOError(3) where OUT is full (R58). -/
theorem putOut_full {b : Byte} {s : State} (h : s.outCap.toNat ≤ s.outLen.toNat) :
    putOut b s = .raise .ioOutFull s := by
  unfold putOut
  rw [if_pos h]

/-- Everything `PutOut` can do. -/
theorem putOut_cases (b : Byte) (s : State) :
    (s.outLen.toNat < s.outCap.toNat ∧
      putOut b s = .ok () (s.setOut (s.outBuf.write s.outLen.toNat b) (s.outLen + 1))) ∨
    (s.outCap.toNat ≤ s.outLen.toNat ∧ putOut b s = .raise .ioOutFull s) := by
  rcases Nat.lt_or_ge s.outLen.toNat s.outCap.toNat with h | h
  · exact .inl ⟨h, putOut_of_room h⟩
  · exact .inr ⟨h, putOut_full h⟩

/-- The append pointer does not wrap where OUT has room (R54). -/
theorem outLen_succ {s : State} (h : s.outLen.toNat < s.outCap.toNat) :
    (s.outLen + 1).toNat = s.outLen.toNat + 1 := by
  have := s.outCap.isLt
  rw [BitVec.toNat_add, Nat.mod_eq_of_lt]
  · rfl
  · change s.outLen.toNat + 1 < 2 ^ 64
    omega

/-- A value that fits is stored as it is (R12). -/
theorem store_fits {r : Config.FreeReg} {w v : Nat} {s : State} (h : v < 2 ^ w) :
    store r w v s = .ok (BitVec.ofNat w v) s := by
  unfold store
  rw [if_pos h]

/-- Whatever `store` gives, the state changes in the draw counter alone. -/
theorem store_cases (r : Config.FreeReg) (w v : Nat) (s : State) :
    (v < 2 ^ w ∧ store r w v s = .ok (BitVec.ofNat w v) s) ∨
    (2 ^ w ≤ v ∧ store r w v s = .ok (Config.freeBits r w s.draws 0) s.countDraw) := by
  unfold store
  split
  · next h => exact .inl ⟨h, rfl⟩
  · next h => exact .inr ⟨Nat.not_lt.1 h, rfl⟩

/-! ### Completion and abort -/

section Endings
variable (c : BitVec 4) (e : Raise) (x : Byte) (s : State)

@[simp] theorem complete_status : (complete c s).status = endStatus c s.op := rfl
@[simp] theorem complete_phase : (complete c s).phase = 0x00 := rfl
@[simp] theorem complete_op : (complete c s).op = 0x00 := rfl
@[simp] theorem complete_outLen : (complete c s).outLen = s.outLen := rfl
@[simp] theorem complete_outBuf : (complete c s).outBuf = s.outBuf := rfl
@[simp] theorem complete_outCap : (complete c s).outCap = s.outCap := rfl
@[simp] theorem complete_inLen : (complete c s).inLen = s.inLen := rfl
@[simp] theorem complete_inOk : (complete c s).inOk = s.inOk := rfl
@[simp] theorem complete_inBuf : (complete c s).inBuf = s.inBuf := rfl
@[simp] theorem complete_maxInLen : (complete c s).maxInLen = s.maxInLen := rfl
@[simp] theorem complete_cmd : (complete c s).cmd = s.cmd := rfl
@[simp] theorem complete_sub : (complete c s).sub = s.sub := rfl
@[simp] theorem complete_hostQ : (complete c s).hostQ = s.hostQ := rfl
@[simp] theorem complete_hostData : (complete c s).hostData = s.hostData := rfl

@[simp] theorem abort_status : (abort e x s).status = abortStatus e x s.op := rfl
@[simp] theorem abort_phase : (abort e x s).phase = 0x00 := rfl
@[simp] theorem abort_op : (abort e x s).op = 0x00 := rfl
@[simp] theorem abort_outLen : (abort e x s).outLen = 0 := rfl
@[simp] theorem abort_outBuf : (abort e x s).outBuf = s.outBuf := rfl
@[simp] theorem abort_outCap : (abort e x s).outCap = s.outCap := rfl
@[simp] theorem abort_inLen : (abort e x s).inLen = s.inLen := rfl
@[simp] theorem abort_inOk : (abort e x s).inOk = s.inOk := rfl
@[simp] theorem abort_inBuf : (abort e x s).inBuf = s.inBuf := rfl
@[simp] theorem abort_maxInLen : (abort e x s).maxInLen = s.maxInLen := rfl
@[simp] theorem abort_cmd : (abort e x s).cmd = s.cmd := rfl
@[simp] theorem abort_sub : (abort e x s).sub = s.sub := rfl
@[simp] theorem abort_hostQ : (abort e x s).hostQ = s.hostQ := rfl
@[simp] theorem abort_hostData : (abort e x s).hostData = s.hostData := rfl

/-- The abort sequence leaves what R246 says, from any state with the same OP and input side. -/
theorem abort_abortedTo {s u : State} (hop : u.op = s.op) (hin : SameInputSide s u) :
    AbortedTo s (abort e x u) e x := by
  refine ⟨rfl, ?_, rfl, rfl, hin⟩
  rw [abort_status, hop]

end Endings

section Settling
variable (x : Byte) (e : Raise) (f : Fault) (s : State) (k : State → State)

@[simp] theorem settle_ok : settle x (.ok () s) k = .next (k s) := rfl
@[simp] theorem settle_raise : settle x (.raise e s) k = .next (abort e x s.disownOut) := rfl
@[simp] theorem settle_stop : settle x (.stop f) k = .fault f := rfl

/-- Everything the end of a micro-operation can be, where it answers a next state. -/
theorem settle_eq_next {r : Res Unit} {t : State} :
    settle x r k = .next t ↔
      (∃ u, r = .ok () u ∧ t = k u) ∨ ∃ e u, r = .raise e u ∧ t = abort e x u.disownOut := by
  cases r <;> simp [settle, eq_comm]

end Settling

end Sys2Proof.Machine
end

