-- ==== Sys2Proof/Laws/Commands.lean ====
section
/-! SUPPORT. The laws of command issue (R100). -/

namespace Sys2Proof.Machine

/-- Command issue without IN_OK (R100). -/
theorem issue_notOk {c : Byte} {s : State} (h : s.inOk = 0) :
    issue c s = .next (abort .ioNotOk c { s with op := c }) := by
  unfold issue
  exact if_pos h

/-- Command issue with an input that is too long (R100). -/
theorem issue_tooLong {c : Byte} {s : State} (h : s.inOk ≠ 0) (hl : s.maxInLen.val < s.inLen.toNat) :
    issue c s = .next (abort .ioTooLong c { s with op := c }) := by
  unfold issue
  rw [if_neg h, if_pos hl]

/-- Command issue where both prechecks pass: CLR is next (R100, R107). -/
theorem issue_starts {c : Byte} {s : State} (h : s.inOk ≠ 0) (hl : s.inLen.toNat ≤ s.maxInLen.val) :
    issue c s = .next { s with op := c, phase := 0x10 } := by
  unfold issue
  rw [if_neg h, if_neg (Nat.not_lt.2 hl)]
  rfl

end Sys2Proof.Machine
end

