-- ==== Sys2Proof/Laws/Decode.lean ====
section
/-! SUPPORT. The laws of the operation codes. -/

namespace Sys2Proof

/-- The decoder gives back what the encoder wrote, and the bytes behind it. -/
theorem decode_encode (i : Instr) (rest : List Byte) : decode (encode i ++ rest) = .ok (i, rest) := by
  cases i <;> rfl

/-- No two operations share an opcode. -/
theorem opcodeMap_distinct : (opcodeMap.map Prod.fst).Nodup := by decide

/-- IDLE is not an operation (R73). -/
theorem idle_is_no_operation (rest : List Byte) : decode (idleCode :: rest) = .error (.reserved 0x00) := rfl

end Sys2Proof
end

