-- ==== Sys2Proof/Laws/Files.lean ====
section
/-! SUPPORT. Read-after-write laws of the register files FREQ, NODE and CODE, and the list of all Symbols. -/

namespace Sys2Proof.Machine

@[simp] theorem Work.freqAt_setFreq_same (w : Work) (b : Byte) (v : Word) : (w.setFreq b v).freqAt b = v := by
  simp [Work.freqAt, Work.setFreq]

theorem Work.freqAt_setFreq_ne (w : Work) {b b' : Byte} (v : Word) (h : b' ≠ b) :
    (w.setFreq b v).freqAt b' = w.freqAt b' := by
  have hne : b.toNat ≠ b'.toNat := fun hn => h (BitVec.eq_of_toNat_eq hn.symm)
  simp [Work.freqAt, Work.setFreq, hne]

@[simp] theorem Work.codeAt_setCode_same (w : Work) (b : Byte) (p : BitString) :
    (w.setCode b p).codeAt b = some p := by
  simp [Work.codeAt, Work.setCode]

theorem Work.codeAt_setCode_ne (w : Work) {b b' : Byte} (p : BitString) (h : b' ≠ b) :
    (w.setCode b p).codeAt b' = w.codeAt b' := by
  have hne : b.toNat ≠ b'.toNat := fun hn => h (BitVec.eq_of_toNat_eq hn.symm)
  simp [Work.codeAt, Work.setCode, hne]

/-- NIL is no node (R10, R30). -/
@[simp] theorem Work.nodeAt_nil (w : Work) : w.nodeAt 0x1FF = none := by
  simp [Work.nodeAt]

/-- Every other index is a node (R30). -/
theorem Work.nodeAt_isSome (w : Work) {i : NodeIx} (h : i.toNat < 511) : (w.nodeAt i).isSome = true := by
  simp [Work.nodeAt, h]

theorem Work.nodeAt_setNode_same (w : Work) {i : NodeIx} (nd : Node) (h : i.toNat < 511) :
    (w.setNode i nd).nodeAt i = some nd := by
  simp [Work.nodeAt, Work.setNode, h]

theorem Work.nodeAt_setNode_ne (w : Work) {i j : NodeIx} (nd : Node) (h : j ≠ i) :
    (w.setNode i nd).nodeAt j = w.nodeAt j := by
  have hne : i.toNat ≠ j.toNat := fun hn => h (BitVec.eq_of_toNat_eq hn.symm)
  simp [Work.nodeAt, Work.setNode, hne]

/-- The list of Symbols holds every Symbol. -/
@[simp] theorem mem_symbols (b : Byte) : b ∈ symbols := by
  unfold symbols
  rw [List.mem_map]
  exact ⟨b.toNat, List.mem_range.2 (by have := b.isLt; omega), by simp⟩

/-- The list of Symbols ascends (R138, R192). -/
theorem symbols_ascend : (symbols.map BitVec.toNat).Pairwise (· < ·) := by
  have h : symbols.map BitVec.toNat = List.range 256 := by
    unfold symbols
    rw [List.map_map]
    conv_rhs => rw [← List.map_id (List.range 256)]
    refine List.map_congr_left fun n hn => ?_
    have := List.mem_range.1 hn
    simp only [Function.comp_apply, BitVec.toNat_ofNat, id]
    omega
  rw [h]
  exact List.pairwise_lt_range

theorem symbols_nodup : symbols.Nodup := by
  have h := symbols_ascend.imp (fun {a b} h => Nat.ne_of_lt h)
  exact List.Nodup.of_map _ h

/-- The rows of FREQ, Symbol by Symbol. -/
theorem freq_toList (w : Work) : w.freq.toList = symbols.map w.freqAt := by
  apply List.ext_getElem
  · simp [symbols]
  · intro n h _
    have hn : n < 256 := by simpa using h
    simp [symbols, Work.freqAt, Nat.mod_eq_of_lt hn]

theorem code_toList (w : Work) : w.code.toList = symbols.map w.codeAt := by
  apply List.ext_getElem
  · simp [symbols]
  · intro n h _
    have hn : n < 256 := by simpa using h
    simp [symbols, Work.codeAt, Nat.mod_eq_of_lt hn]

theorem Work.freqRows_eq (w : Work) : w.freqRows = symbols.map fun b => (b, w.freqAt b) := by
  rw [Work.freqRows, freq_toList]
  generalize symbols = l
  induction l with
  | nil => rfl
  | cons b l ih => simp [ih]

/-- The next turn of the leaf scan, said of the Symbols (R139). -/
theorem nextSymbol_eq (k : Nat) (w : Work) :
    nextSymbol k w = symbols.find? fun b => decide (k ≤ b.toNat) && w.freqAt b != 0 := by
  rw [nextSymbol, Work.freqRows_eq]
  generalize symbols = l
  induction l with
  | nil => rfl
  | cons b l ih =>
    simp only [List.map_cons, List.find?_cons]
    cases decide (k ≤ b.toNat) && w.freqAt b != 0
    · exact ih
    · rfl

theorem distinctSymbols_eq (w : Work) :
    distinctSymbols w = (symbols.filter fun b => w.freqAt b != 0).length := by
  rw [distinctSymbols, freq_toList, List.filter_map, List.length_map]
  rfl

theorem freqSum_eq (w : Work) : freqSum w = (symbols.map fun b => (w.freqAt b).toNat).sum := by
  rw [freqSum, freq_toList, List.map_map]
  rfl

theorem bitSum_eq (w : Work) : bitSum w = (symbols.map fun b => (w.freqAt b).toNat * w.clen b).sum := by
  rw [bitSum, freq_toList, code_toList, List.zipWith_map]
  generalize symbols = l
  congr 1
  induction l with
  | nil => rfl
  | cons b l ih => simp [Work.clen]

/-- The empty tables of CLR (R103). -/
@[simp] theorem freqAt_replicate (w : Work) (b : Byte) :
    ({ w with freq := Vector.replicate 256 0 } : Work).freqAt b = 0 := by
  simp [Work.freqAt]

@[simp] theorem codeAt_replicate (w : Work) (b : Byte) :
    ({ w with code := Vector.replicate 256 none } : Work).codeAt b = none := by
  simp [Work.codeAt]

end Sys2Proof.Machine
end

