-- ==== Sys2Proof/Laws/Frames.lean ====
section
/-! SUPPORT. What the rule of a micro-operation can change at all: the working state, OUT and its append pointer, and the
draw counter. One lemma for each operation; how the operation ends does not matter. -/

namespace Sys2Proof.Machine

/-- `t` is `s` but for the working state, OUT, OUT_LEN and the draw counter. -/
structure SameOutside (s t : State) : Prop where
  status : t.status = s.status
  inLen : t.inLen = s.inLen
  outCap : t.outCap = s.outCap
  inOk : t.inOk = s.inOk
  cmd : t.cmd = s.cmd
  phase : t.phase = s.phase
  op : t.op = s.op
  inBuf : t.inBuf = s.inBuf
  maxInLen : t.maxInLen = s.maxInLen
  sub : t.sub = s.sub
  hArg : t.hArg = s.hArg
  bArg : t.bArg = s.bArg
  endArg : t.endArg = s.endArg
  hostQ : t.hostQ = s.hostQ
  hostData : t.hostData = s.hostData

theorem SameOutside.refl (s : State) : SameOutside s s := by constructor <;> rfl

theorem SameOutside.trans {s t u : State} (h : SameOutside s t) (h' : SameOutside t u) : SameOutside s u where
  status := h'.status.trans h.status
  inLen := h'.inLen.trans h.inLen
  outCap := h'.outCap.trans h.outCap
  inOk := h'.inOk.trans h.inOk
  cmd := h'.cmd.trans h.cmd
  phase := h'.phase.trans h.phase
  op := h'.op.trans h.op
  inBuf := h'.inBuf.trans h.inBuf
  maxInLen := h'.maxInLen.trans h.maxInLen
  sub := h'.sub.trans h.sub
  hArg := h'.hArg.trans h.hArg
  bArg := h'.bArg.trans h.bArg
  endArg := h'.endArg.trans h.endArg
  hostQ := h'.hostQ.trans h.hostQ
  hostData := h'.hostData.trans h.hostData

theorem sameOutside_setWork (s : State) (w : Work) : SameOutside s (s.setWork w) := by constructor <;> rfl
theorem sameOutside_setOut (s : State) (m : Memory) (l : Word) : SameOutside s (s.setOut m l) := by constructor <;> rfl
theorem sameOutside_countDraw (s : State) : SameOutside s s.countDraw := by constructor <;> rfl

/-- An abort after a rule that stayed inside the frame leaves what R246 says. -/
theorem SameOutside.abortedTo {s u : State} (h : SameOutside s u) (e : Raise) (x : Byte) :
    Safety.AbortedTo s (abort e x u.disownOut) e x :=
  abort_abortedTo e x h.op
    ⟨fun a => congrArg (Memory.read · a) h.inBuf, h.inLen, h.outCap, h.inOk, h.hostQ, h.hostData,
      h.maxInLen⟩

theorem SameOutside.sameInputSide {s t : State} (h : SameOutside s t) : Safety.SameInputSide s t :=
  ⟨fun a => congrArg (Memory.read · a) h.inBuf, h.inLen, h.outCap, h.inOk, h.hostQ, h.hostData,
      h.maxInLen⟩

theorem SameOutside.sameControl {s t : State} (h : SameOutside s t) : Safety.SameControl s t :=
  ⟨h.status, h.op, h.cmd, h.sub⟩

/-- A result stays inside the frame, whichever way it ends. -/
structure Res.Framed {α : Type} (s : State) (r : Res α) : Prop where
  ok : ∀ a t, r = .ok a t → SameOutside s t
  raise : ∀ e t, r = .raise e t → SameOutside s t

theorem Res.Framed.bind {α β : Type} {s : State} {r : Res α} {k : α → State → Res β} (h : r.Framed s)
    (hk : ∀ a t, (k a t).Framed t) : (r.bind k).Framed s where
  ok b t hb := by
    obtain ⟨a, u, hu, hku⟩ := (Res.bind_eq_ok k).1 hb
    exact (h.ok a u hu).trans ((hk a u).ok b t hku)
  raise e t he := by
    rcases (Res.bind_eq_raise e k).1 he with hr | ⟨a, u, hu, hku⟩
    · exact h.raise e t hr
    · exact (h.ok a u hu).trans ((hk a u).raise e t hku)

theorem framed_to {α : Type} {s t : State} (a : α) (h : SameOutside s t) : (Res.ok a t).Framed s :=
  ⟨fun _ _ he => (by cases he; exact h), fun _ _ he => nomatch he⟩

theorem Res.Framed.ite {α : Type} {s : State} {a b : Res α} (p : Prop) [Decidable p] (ha : a.Framed s)
    (hb : b.Framed s) : (if p then a else b : Res α).Framed s := by
  split
  · exact ha
  · exact hb

theorem framed_ok {α : Type} (a : α) (s : State) : (Res.ok a s).Framed s := framed_to a (.refl s)
theorem framed_raise {α : Type} (e : Raise) (s : State) : (Res.raise e s : Res α).Framed s :=
  ⟨fun _ _ he => (nomatch he), fun _ _ he => by cases he; exact .refl s⟩
theorem framed_stop {α : Type} (f : Fault) (s : State) : (Res.stop f : Res α).Framed s :=
  ⟨fun _ _ he => (nomatch he), fun _ _ he => nomatch he⟩
theorem framed_putWork (w : Work) (s : State) : (putWork w s).Framed s :=
  framed_to () (sameOutside_setWork s w)

theorem framed_store (r : Config.FreeReg) (w v : Nat) (s : State) : (store r w v s).Framed s := by
  unfold store
  split
  · exact framed_ok _ s
  · exact framed_to _ (sameOutside_countDraw s)

theorem framed_getIn (a : Nat) (s : State) : (getIn a s).Framed s := by
  unfold getIn
  split
  · split
    · exact framed_ok _ s
    · exact framed_stop _ s
  · exact framed_stop _ s

theorem framed_memReadIn (n a : Nat) (s : State) : (memReadIn n a s).Framed s := by
  induction n generalizing a s with
  | zero => exact framed_ok _ s
  | succ n ih => exact (framed_getIn a s).bind fun b t => (ih _ t).bind fun v u => framed_ok _ u

theorem framed_putOut (b : Byte) (s : State) : (putOut b s).Framed s := by
  unfold putOut
  split
  · exact framed_raise _ s
  · exact framed_to _ (sameOutside_setOut s _ _)

theorem framed_putOutN (m v : Nat) (s : State) : (putOutN m v s).Framed s := by
  induction m generalizing v s with
  | zero => exact framed_ok _ s
  | succ m ih => exact (framed_putOut _ s).bind fun _ t => ih _ t

theorem framed_forEach {α : Type} (xs : List α) {body : α → State → Res Unit} (h : ∀ x s, (body x s).Framed s)
    (s : State) : (forEach xs body s).Framed s := by
  induction xs generalizing s with
  | nil => exact framed_ok _ s
  | cons x xs ih => exact (h x s).bind fun _ t => ih t

theorem framed_scanSymbol (s : State) : (scanSymbol s).Framed s := by
  unfold scanSymbol
  split
  · exact framed_ok _ s
  · exact framed_stop _ s

theorem framed_getNode (i : NodeIx) (s : State) : (getNode i s).Framed s := by
  unfold getNode
  split
  · exact framed_ok _ s
  · exact framed_stop _ s

theorem framed_heapInsert (i : NodeIx) (s : State) : (heapInsert i s).Framed s := by
  unfold heapInsert
  split
  · exact framed_raise _ s
  · exact framed_putWork _ s

theorem framed_heapExtract (s : State) : (heapExtract s).Framed s := by
  unfold heapExtract
  split
  · exact framed_raise _ s
  · split
    · exact framed_stop _ s
    · split
      · exact framed_raise _ s
      · exact framed_to _ (sameOutside_setWork s _)

theorem framed_addNode (nd : Node) (s : State) : (addNode nd s).Framed s := by
  unfold addNode
  split
  · exact framed_raise _ s
  · exact (framed_putWork _ s).bind fun _ t => framed_heapInsert _ t

/-! ### The rules of the micro-operations -/

theorem framed_facc (s : State) : (facc s).Framed s :=
  (framed_getIn _ s).bind fun _ t => (framed_store _ _ _ t).bind fun _ u => framed_putWork _ u

theorem framed_leaf (s : State) : (leaf s).Framed s := (framed_scanSymbol s).bind fun _ t => framed_addNode _ t

theorem framed_merge (s : State) : (merge s).Framed s :=
  (framed_heapExtract s).bind fun _ t => (framed_heapExtract t).bind fun _ u =>
    (framed_store _ _ _ u).bind fun _ v => framed_addNode _ v

theorem framed_root (s : State) : (root s).Framed s := by
  unfold root
  split
  · exact framed_putWork _ s
  · exact (framed_heapExtract s).bind fun _ t => framed_putWork _ t

theorem framed_visit (room : Nat) (i : NodeIx) (path : BitString) (s : State) : (visit room i path s).Framed s := by
  induction room generalizing i path s with
  | zero =>
    unfold visit
    split
    · exact framed_stop _ s
    · split
      · exact framed_putWork _ s
      · exact framed_raise _ s
  | succ room ih =>
    unfold visit
    split
    · exact framed_stop _ s
    · split
      · exact framed_putWork _ s
      · exact (ih _ _ s).bind fun _ t => ih _ _ t

theorem framed_cgen (s : State) : (cgen s).Framed s := by
  refine (framed_getNode _ s).bind fun nd t => ?_
  cases nd.tag
  · exact framed_putWork _ t
  · exact framed_visit _ _ _ t

theorem framed_emitFull (s : State) : (emitFull s).Framed s := by
  unfold emitFull
  split
  · exact (framed_putOut _ s).bind fun _ t => framed_putWork _ t
  · exact framed_ok _ s

theorem framed_pushBit (b : Bit) (s : State) : (pushBit b s).Framed s :=
  (framed_store _ _ _ s).bind fun _ t => (framed_store _ _ _ t).bind fun _ u =>
    (framed_putWork _ u).bind fun _ v => framed_emitFull v

theorem framed_pushc (s : State) : (pushc s).Framed s :=
  (framed_getIn _ s).bind fun _ t => framed_forEach _ framed_pushBit t

theorem framed_emitHeld (s : State) : (emitHeld s).Framed s := by
  unfold emitHeld
  split
  · refine Res.Framed.bind ?_ fun _ t => (framed_putOut _ t).bind fun _ u => framed_putWork _ u
    unfold paddedByte
    split
    · exact framed_ok _ s
    · exact framed_to _ (sameOutside_countDraw s)
  · exact framed_ok _ s

theorem framed_fin (s : State) : (fin s).Framed s := by
  refine (framed_emitHeld s).bind fun _ t => ?_
  split
  · exact framed_ok _ t
  · exact framed_raise _ t

theorem framed_validBits (s : State) : (validBits s).Framed s := by
  unfold validBits
  split
  · exact framed_to _ (sameOutside_countDraw s)
  · exact framed_ok _ s

theorem framed_headerRegs (s : State) : (headerRegs s).Framed s := by
  unfold headerRegs
  apply (framed_putWork _ s).bind
  intro _ t
  apply (framed_store _ _ (bitSum t.work) t).bind
  intro _ u
  exact (framed_putWork _ u).bind fun _ v => (framed_validBits v).bind fun _ x => framed_putWork _ x

theorem framed_putPair (b : Byte × Word) (s : State) : (putPair b s).Framed s := by
  unfold putPair
  split
  · exact framed_ok _ s
  · exact (framed_putOut _ s).bind fun _ t => framed_putOutN _ _ t

theorem framed_hser (s : State) : (hser s).Framed s := by
  unfold hser
  exact (framed_headerRegs s).bind fun _ t => (framed_putOutN _ _ t).bind fun _ u =>
    (framed_forEach _ framed_putPair u).bind fun _ v => (framed_putOut _ v).bind fun _ x =>
    (framed_putOutN _ _ x).bind fun _ y => framed_putWork _ y

theorem framed_getPair (k : Nat) (s : State) : (getPair k s).Framed s :=
  (framed_getIn _ s).bind fun _ t => (framed_memReadIn _ _ t).bind fun _ u => framed_putWork _ u

theorem framed_parseBits (n : Nat) (s : State) : (parseBits n s).Framed s := by
  refine (framed_getIn _ s).bind fun _ t => (framed_putWork _ t).bind fun _ u => ?_
  split
  · exact framed_raise _ u
  · refine (framed_memReadIn _ _ u).bind fun _ v => (framed_putWork _ v).bind fun _ x => ?_
    split
    · exact framed_raise _ x
    · exact framed_ok _ x

theorem framed_parsePairs (n : Nat) (s : State) : (parsePairs n s).Framed s := by
  unfold parsePairs
  split
  · exact framed_raise _ s
  · exact (framed_forEach _ framed_getPair s).bind fun _ t => .ite _ (framed_raise _ t) (framed_parseBits _ t)

theorem framed_hpar (s : State) : (hpar s).Framed s := by
  unfold hpar
  split
  · exact framed_raise _ s
  · refine (framed_memReadIn _ _ s).bind fun _ t => (framed_putWork _ t).bind fun _ u => ?_
    split
    · exact framed_raise _ u
    · exact framed_parsePairs _ u

theorem framed_getb (s : State) : (getb s).Framed s :=
  (framed_getIn _ s).bind fun _ t => (framed_store _ _ _ t).bind fun _ u => framed_putWork _ u

theorem framed_wbeg (s : State) : (wbeg s).Framed s := by
  unfold wbeg
  split
  · split
    · exact framed_ok _ s
    · exact framed_raise _ s
  · exact framed_putWork _ s

theorem framed_walkEdge (s : State) : (walkEdge s).Framed s := by
  refine (framed_getNode _ s).bind fun _ t => (framed_putWork _ t).bind fun _ u => (framed_getNode _ u).bind fun nd v => ?_
  cases nd.tag
  · exact (framed_putOut _ v).bind fun _ x => framed_putWork _ x
  · exact framed_ok _ v

theorem framed_walk1 (s : State) : (walk1 s).Framed s := by
  refine (framed_getNode _ s).bind fun nd t => ?_
  cases nd.tag
  · exact framed_putOut _ t
  · exact framed_walkEdge t

theorem framed_wfin (s : State) : (wfin s).Framed s := by
  unfold wfin
  split
  · exact framed_ok _ s
  · exact framed_raise _ s

end Sys2Proof.Machine
end

