-- ==== Sys2Proof/Laws/Heap.lean ====
section
/-! SUPPORT. The heap's laws: HINS adds a member and keeps the canonical list, HEXT takes the least key (R121 to R124). -/

namespace Sys2Proof.Machine

/-- The set with `i` added. -/
@[simp] theorem mem_heapAdd {i j : NodeIx} {h : List NodeIx} : j ∈ heapAdd i h ↔ j ∈ h ∨ j = i := by
  induction h with
  | nil => simp [heapAdd]
  | cons x rest ih =>
    unfold heapAdd
    split
    · simp; tauto
    · split
      · next hx => subst hx; simp; tauto
      · simp [ih]; tauto

/-- Adding a member keeps the list in rising order. -/
theorem heapAdd_sorted {i : NodeIx} {h : List NodeIx} (hs : (h.map BitVec.toNat).Pairwise (· < ·)) :
    ((heapAdd i h).map BitVec.toNat).Pairwise (· < ·) := by
  induction h with
  | nil => simp [heapAdd]
  | cons x rest ih =>
    rw [List.map_cons, List.pairwise_cons] at hs
    unfold heapAdd
    split
    · next hlt =>
      simp only [List.map_cons, List.pairwise_cons, List.mem_cons, forall_eq_or_imp]
      exact ⟨⟨hlt, fun y hy => hlt.trans (hs.1 y hy)⟩, hs.1, hs.2⟩
    · split
      · simpa using hs
      · next hnl hne =>
        rw [List.map_cons, List.pairwise_cons]
        refine ⟨fun y hy => ?_, ih hs.2⟩
        obtain ⟨z, hz, rfl⟩ := List.mem_map.1 hy
        rcases mem_heapAdd.1 hz with hz | rfl
        · exact hs.1 _ (List.mem_map_of_mem hz)
        · have : z.toNat ≠ x.toNat := fun hn => hne (BitVec.eq_of_toNat_eq hn)
          omega

/-- Adding a new member makes the list one longer. -/
theorem heapAdd_length {i : NodeIx} {h : List NodeIx} (hi : i ∉ h) : (heapAdd i h).length = h.length + 1 := by
  induction h with
  | nil => rfl
  | cons x rest ih =>
    rw [List.mem_cons, not_or] at hi
    unfold heapAdd
    split
    · rfl
    · rw [if_neg hi.1]; simp [ih hi.2]

/-- The key order is the lexicographic order on (weight, index) (R121). -/
theorem Work.keyLt_iff {w : Work} {i j : NodeIx} :
    w.keyLt i j = true ↔ w.weightAt i < w.weightAt j ∨ (w.weightAt i = w.weightAt j ∧ i.toNat < j.toNat) := by
  simp [Work.keyLt]

theorem Work.keyLt_trans {w : Work} {i j k : NodeIx} (h : w.keyLt i j = true) (h' : w.keyLt j k = true) :
    w.keyLt i k = true := by
  rw [Work.keyLt_iff] at *
  omega

/-- The key is a strict total order on distinct indices (R121). -/
theorem Work.keyLt_total {w : Work} {i j : NodeIx} (h : i ≠ j) : w.keyLt i j = true ∨ w.keyLt j i = true := by
  have : i.toNat ≠ j.toNat := fun hn => h (BitVec.eq_of_toNat_eq hn)
  rw [Work.keyLt_iff, Work.keyLt_iff]
  omega

theorem Work.keyLt_irrefl {w : Work} {i : NodeIx} : ¬ w.keyLt i i = true := by
  rw [Work.keyLt_iff]
  omega

/-- A non-empty set has a least member. -/
theorem leastOf_isSome {w : Work} {h : List NodeIx} (hne : h ≠ []) : ∃ i, leastOf w h = some i := by
  cases h with
  | nil => exact absurd rfl hne
  | cons x rest =>
    unfold leastOf
    split
    · exact ⟨_, rfl⟩
    · split <;> exact ⟨_, rfl⟩

/-- The least member is a member, and its key is before every other member's (R123). -/
theorem leastOf_spec {w : Work} {h : List NodeIx} {i : NodeIx} (hi : leastOf w h = some i) :
    i ∈ h ∧ ∀ j ∈ h, j ≠ i → w.keyLt i j = true := by
  induction h generalizing i with
  | nil => cases hi
  | cons x rest ih =>
    unfold leastOf at hi
    split at hi
    · next hr =>
      cases hi
      have : rest = [] := by
        by_contra hne
        obtain ⟨j, hj⟩ := leastOf_isSome (w := w) hne
        rw [hj] at hr; cases hr
      subst this
      simp
    · next j hj =>
      obtain ⟨hm, hl⟩ := ih hj
      split at hi
      · next hlt =>
        cases hi
        refine ⟨List.mem_cons_of_mem _ hm, fun k hk hne => ?_⟩
        rcases List.mem_cons.1 hk with rfl | hk
        · exact hlt
        · exact hl k hk hne
      · next hnl =>
        cases hi
        refine ⟨List.mem_cons_self, fun k hk hne => ?_⟩
        rcases List.mem_cons.1 hk with rfl | hk'
        · exact absurd rfl hne
        · have hxj : j = x ∨ w.keyLt x j = true := by
            by_cases hjx : j = x
            · exact .inl hjx
            · exact .inr ((Work.keyLt_total hjx).resolve_left hnl)
          by_cases hkj : k = j
          · subst hkj; exact hxj.resolve_left hne
          · rcases hxj with rfl | hxj
            · exact hl k hk' hkj
            · exact Work.keyLt_trans hxj (hl k hk' hkj)

/-- HEXT's result is a function of the set and the weights alone (R124). -/
theorem leastOf_unique {w : Work} {h : List NodeIx} {i j : NodeIx} (hi : leastOf w h = some i) (hj : j ∈ h)
    (hl : ∀ k ∈ h, k ≠ j → w.keyLt j k = true) : i = j := by
  by_contra hne
  obtain ⟨hm, hl'⟩ := leastOf_spec hi
  exact Work.keyLt_irrefl (Work.keyLt_trans (hl' j hj (Ne.symm hne)) (hl i hm hne))

/-- HINS where the heap has room (R122). -/
theorem heapInsert_of_room {i : NodeIx} {s : State} (h : s.work.hsize.toNat < 256) :
    heapInsert i s = .ok () (s.setWork (s.work.setHeap (heapAdd i s.work.heap) (s.work.hsize + 1))) := by
  unfold heapInsert
  rw [if_neg (by unfold Config.heapCap; omega)]
  rfl

/-- HINS on a full heap (R122). -/
theorem heapInsert_full {i : NodeIx} {s : State} (h : 256 ≤ s.work.hsize.toNat) :
    heapInsert i s = .raise .guardHeap s := by
  unfold heapInsert
  rw [if_pos (by unfold Config.heapCap; omega)]

/-- HEXT on an empty heap (R123). -/
theorem heapExtract_empty {s : State} (h : s.work.hsize = 0) : heapExtract s = .raise .emptyHeap s := by
  unfold heapExtract
  rw [if_pos h]

/-- HEXT on a heap that holds NIL stops: NIL has no key (R30, R121). -/
theorem heapExtract_nil {s : State} (h0 : s.work.hsize ≠ 0) (hnil : Config.nil ∈ s.work.heap) :
    heapExtract s = .stop .nilNode := by
  unfold heapExtract
  rw [if_neg h0, if_pos (by simpa using hnil)]

/-- HEXT where entries are counted but none is there (notes/assumptions/9.md). -/
theorem heapExtract_none {s : State} (h : s.work.heap = []) : heapExtract s = .raise .emptyHeap s := by
  unfold heapExtract
  rw [h]
  split
  · rfl
  · rfl

/-- HEXT where the heap has members, none of them NIL (R123). -/
theorem heapExtract_some {s : State} (h0 : s.work.hsize ≠ 0) (hne : s.work.heap ≠ [])
    (hnil : Config.nil ∉ s.work.heap) :
    ∃ i, leastOf s.work s.work.heap = some i ∧
      heapExtract s = .ok i (s.setWork (s.work.setHeap (s.work.heap.erase i) (s.work.hsize - 1))) := by
  obtain ⟨i, hi⟩ := leastOf_isSome (w := s.work) hne
  refine ⟨i, hi, ?_⟩
  unfold heapExtract
  rw [if_neg h0, if_neg (by simpa using hnil), hi]

end Sys2Proof.Machine
end

