-- ==== Sys2Proof/Laws/Output.lean ====
section
/-! SUPPORT. Appending to OUT: what PutOut, PutOutN and HSER's loop over the pairs write (R58, R191). -/

namespace Sys2Proof.Machine

open Sys2Proof.Reference

/-- `t` is `s` with the bytes `bs` appended to OUT. -/
structure Appended (s t : State) (bs : List Byte) : Prop where
  only : t = s.setOut t.outBuf t.outLen
  len : t.outLen.toNat = s.outLen.toNat + bs.length
  new : ∀ k, k < bs.length → t.outBuf.read (s.outLen.toNat + k) = bs[k]?
  old : ∀ a, a < s.outLen.toNat ∨ s.outLen.toNat + bs.length ≤ a → t.outBuf.read a = s.outBuf.read a

theorem Appended.refl (s : State) : Appended s s [] where
  only := rfl
  len := rfl
  new := fun k hk => absurd hk (Nat.not_lt_zero k)
  old := fun _ _ => rfl

theorem Appended.trans {s t u : State} {bs cs : List Byte} (h : Appended s t bs) (h' : Appended t u cs) :
    Appended s u (bs ++ cs) where
  only := by
    rw [h'.only, h.only]
    rfl
  len := by
    rw [h'.len, h.len, List.length_append]
    omega
  new := fun k hk => by
    rw [List.length_append] at hk
    by_cases hb : k < bs.length
    · rw [h'.old _ (.inl (by rw [h.len]; omega)), h.new k hb, List.getElem?_append_left hb]
    · have hc := h'.new (k - bs.length) (by omega)
      rw [h.len] at hc
      rw [List.getElem?_append_right (by omega), ← hc]
      congr 1
      omega
  old := fun a ha => by
    rw [List.length_append] at ha
    rw [h'.old a (by rw [h.len]; omega), h.old a (by omega)]

theorem Appended.work {s t : State} {bs : List Byte} (h : Appended s t bs) : t.work = s.work := by
  rw [h.only]
  rfl

theorem Appended.outCap {s t : State} {bs : List Byte} (h : Appended s t bs) : t.outCap = s.outCap := by
  rw [h.only]
  rfl

theorem Appended.sameOutside {s t : State} {bs : List Byte} (h : Appended s t bs) : SameOutside s t := by
  rw [h.only]
  exact sameOutside_setOut s _ _

/-- What a rule that only appends can do: it appends all of `bs` where they fit, and raises IOError(3) where they do
not. -/
structure Appends (s : State) (r : Res Unit) (bs : List Byte) : Prop where
  fits : s.outLen.toNat + bs.length ≤ s.outCap.toNat → ∃ t, r = .ok () t ∧ Appended s t bs
  full : s.outCap.toNat < s.outLen.toNat + bs.length → ∃ u, r = .raise .ioOutFull u ∧ SameOutside s u

/-- A rule that appends nothing. -/
theorem appends_nil (s : State) (h : s.outLen.toNat ≤ s.outCap.toNat) : Appends s (.ok () s) [] where
  fits := fun _ => ⟨s, rfl, .refl s⟩
  full := fun hc => absurd hc (by simp only [List.length_nil]; omega)

theorem Appends.bind {s : State} {r : Res Unit} {k : Unit → State → Res Unit} {bs cs : List Byte}
    (h : Appends s r bs) (hk : ∀ t, Appended s t bs → Appends t (k () t) cs) : Appends s (r.bind k) (bs ++ cs) where
  fits := fun hf => by
    rw [List.length_append] at hf
    obtain ⟨t, rfl, ht⟩ := h.fits (by omega)
    obtain ⟨u, hu, hu'⟩ := (hk t ht).fits (by rw [ht.len, ht.outCap]; omega)
    exact ⟨u, hu, ht.trans hu'⟩
  full := fun hf => by
    rw [List.length_append] at hf
    by_cases hb : s.outLen.toNat + bs.length ≤ s.outCap.toNat
    · obtain ⟨t, rfl, ht⟩ := h.fits hb
      obtain ⟨u, hu, hu'⟩ := (hk t ht).full (by rw [ht.len, ht.outCap]; omega)
      exact ⟨u, hu, ht.sameOutside.trans hu'⟩
    · obtain ⟨u, rfl, hu⟩ := h.full (by omega)
      exact ⟨u, rfl, hu⟩

/-- Everything `PutOut` can do (R58). -/
theorem appends_putOut (b : Byte) (s : State) : Appends s (putOut b s) [b] where
  fits := fun hf => by
    have hr : s.outLen.toNat < s.outCap.toNat := by simpa using hf
    refine ⟨_, putOut_of_room hr, rfl, ?_, fun k hk => ?_, fun a ha => ?_⟩
    · rw [State.setOut_outLen, outLen_succ hr]
      rfl
    · have h0 : k = 0 := by simpa using hk
      subst h0
      simp
    · rw [State.setOut_outBuf, Memory.read_write_ne _ _ (by simp only [List.length_singleton] at ha; omega)]
  full := fun hf => by
    have hf' : s.outCap.toNat < s.outLen.toNat + 1 := hf
    exact ⟨s, putOut_full (by omega), .refl s⟩

theorem leBytes_length (n v : Nat) : (leBytes n v).length = n := by
  induction n generalizing v with
  | zero => rfl
  | succ n ih => simp [leBytes, ih]

/-- Everything `PutOutN` can do (R191). -/
theorem appends_putOutN (m v : Nat) (s : State) (h : s.outLen.toNat ≤ s.outCap.toNat) :
    Appends s (putOutN m v s) (leBytes m v) := by
  induction m generalizing v s with
  | zero => exact appends_nil s h
  | succ m ih =>
    by_cases hr : s.outLen.toNat < s.outCap.toNat
    · exact (appends_putOut _ s).bind fun t ht => ih _ t (by
        have := ht.len
        rw [ht.outCap]
        simp only [List.length_singleton] at this
        omega)
    · refine ⟨fun hf => absurd hf (by rw [leBytes_length]; omega), fun _ => ⟨s, ?_, .refl s⟩⟩
      rw [putOutN, putOut_full (by omega), Res.bind_raise]

end Sys2Proof.Machine
end

