-- ==== Sys2Proof/Laws/Paths.lean ====
section
/-! SUPPORT. The laws of paths in the node arena (R156). -/

namespace Sys2Proof.Reference

open Sys2Proof.Machine

variable {w : Work} {i : NodeIx} {nd : Node} {b : Bit} {rest : BitString}

/-- The empty path stays. -/
theorem follow_nil (h : w.nodeAt i = some nd) : follow w i [] = some i := by
  rw [follow, h]
  rfl

/-- No path leaves a Leaf. -/
theorem follow_leaf (h : w.nodeAt i = some nd) (ht : nd.tag = .leaf) : follow w i (b :: rest) = none := by
  rw [follow, h]
  simp only [ht]

/-- From an Internal node a path goes on at the child. -/
theorem follow_internal (h : w.nodeAt i = some nd) (ht : nd.tag = .internal) :
    follow w i (b :: rest) = follow w (nd.child b) rest := by
  rw [follow, h]
  simp only [ht]

/-- The Symbol on a path to a known node. -/
theorem leafOn_eq {j : NodeIx} {path : BitString} {s : Byte} (hf : follow w i path = some j)
    (hj : w.nodeAt j = some nd) (h : leafOn w i path = some s) : nd.tag = .leaf ∧ s = nd.sym := by
  simp only [leafOn, hf, hj] at h
  split at h
  · next ht => exact ⟨ht, (Option.some.inj h).symm⟩
  · cases h

theorem follow_of_leafOn {path : BitString} {s : Byte} (h : leafOn w i path = some s) :
    ∃ j, follow w i path = some j := by
  cases hf : follow w i path with
  | none =>
    simp only [leafOn, hf] at h
    cases h
  | some j => exact ⟨j, rfl⟩

end Sys2Proof.Reference
end

