-- ==== Sys2Proof/Laws/PerInstr.lean ====
section
/-! SUPPORT. Statements for all operations, made operation by operation. -/

namespace Sys2Proof.Laws.Coding

/-- The encoding of an operation is one byte, its opcode-table word decodes to it, and it may stand at exactly one port
(R70, R72, R77). -/
def Statement (i : Instr) : Prop :=
  (encode i).length = 1 ∧ decodeTableWord 8 (opcode i).toNat = some i ∧
  ∃ p, i.wellFormedAt p = true ∧ ∀ q, i.wellFormedAt q = true → q = p

theorem encode : Statement .encode := ⟨rfl, rfl, .cmd, rfl, fun q h => by cases q <;> first | rfl | cases h⟩
theorem decode : Statement .decode := ⟨rfl, rfl, .cmd, rfl, fun q h => by cases q <;> first | rfl | cases h⟩
theorem clr : Statement .clr := ⟨rfl, rfl, .phase, rfl, fun q h => by cases q <;> first | rfl | cases h⟩
theorem facc : Statement .facc := ⟨rfl, rfl, .phase, rfl, fun q h => by cases q <;> first | rfl | cases h⟩
theorem leaf : Statement .leaf := ⟨rfl, rfl, .phase, rfl, fun q h => by cases q <;> first | rfl | cases h⟩
theorem hins : Statement .hins := ⟨rfl, rfl, .call, rfl, fun q h => by cases q <;> first | rfl | cases h⟩
theorem hext : Statement .hext := ⟨rfl, rfl, .call, rfl, fun q h => by cases q <;> first | rfl | cases h⟩
theorem merge : Statement .merge := ⟨rfl, rfl, .phase, rfl, fun q h => by cases q <;> first | rfl | cases h⟩
theorem root : Statement .root := ⟨rfl, rfl, .phase, rfl, fun q h => by cases q <;> first | rfl | cases h⟩
theorem cgen : Statement .cgen := ⟨rfl, rfl, .phase, rfl, fun q h => by cases q <;> first | rfl | cases h⟩
theorem hser : Statement .hser := ⟨rfl, rfl, .phase, rfl, fun q h => by cases q <;> first | rfl | cases h⟩
theorem push1 : Statement .push1 := ⟨rfl, rfl, .call, rfl, fun q h => by cases q <;> first | rfl | cases h⟩
theorem pushc : Statement .pushc := ⟨rfl, rfl, .phase, rfl, fun q h => by cases q <;> first | rfl | cases h⟩
theorem fin : Statement .fin := ⟨rfl, rfl, .phase, rfl, fun q h => by cases q <;> first | rfl | cases h⟩
theorem hpar : Statement .hpar := ⟨rfl, rfl, .phase, rfl, fun q h => by cases q <;> first | rfl | cases h⟩
theorem getb : Statement .getb := ⟨rfl, rfl, .phase, rfl, fun q h => by cases q <;> first | rfl | cases h⟩
theorem walk1 : Statement .walk1 := ⟨rfl, rfl, .phase, rfl, fun q h => by cases q <;> first | rfl | cases h⟩
theorem endCmd : Statement .endCmd := ⟨rfl, rfl, .phase, rfl, fun q h => by cases q <;> first | rfl | cases h⟩
theorem wbeg : Statement .wbeg := ⟨rfl, rfl, .phase, rfl, fun q h => by cases q <;> first | rfl | cases h⟩
theorem wfin : Statement .wfin := ⟨rfl, rfl, .phase, rfl, fun q h => by cases q <;> first | rfl | cases h⟩

end Sys2Proof.Laws.Coding
end

