-- ==== Sys2Proof/Laws/Sequencer.lean ====
section
/-! SUPPORT. The laws of the sequencer: where each transition of R107 can go and what it writes. -/

namespace Sys2Proof.Machine

/-- `while HSIZE > 1: MERGE`, then ROOT: only PHASE is written. -/
theorem mergeOrRoot_eq (s : State) :
    mergeOrRoot s = s.setPhase (if 1 < s.work.hsize.toNat then 0x15 else 0x16) := by
  unfold mergeOrRoot
  split <;> rfl

/-- The leaf scan goes to the next Symbol with nonzero frequency (R139). -/
theorem leafScan_some {k : Nat} {s : State} {b : Byte} (h : nextSymbol k s.work = some b) :
    leafScan k s = (s.setWork (s.work.setScan (b.setWidth 9))).setPhase 0x12 := by
  unfold leafScan
  rw [h]
  rfl

/-- The leaf scan is over (R139). -/
theorem leafScan_none {k : Nat} {s : State} (h : nextSymbol k s.work = none) :
    leafScan k s =
      (s.setWork (s.work.setScan 256)).setPhase (if 1 < s.work.hsize.toNat then 0x15 else 0x16) := by
  unfold leafScan
  rw [h]
  exact mergeOrRoot_eq _

/-- The leaf scan writes SCAN and PHASE alone. -/
theorem leafScan_cases (k : Nat) (s : State) :
    ∃ z p, leafScan k s = (s.setWork (s.work.setScan z)).setPhase p ∧ (p = 0x12 ∨ p = 0x15 ∨ p = 0x16) := by
  cases h : nextSymbol k s.work with
  | some b => exact ⟨_, _, leafScan_some h, .inl rfl⟩
  | none =>
    refine ⟨_, _, leafScan_none h, ?_⟩
    split
    · exact .inr (.inl rfl)
    · exact .inr (.inr rfl)

/-- What the next Symbol of the leaf scan is (R138). -/
theorem nextSymbol_eq_some {k : Nat} {w : Work} {b : Byte} :
    nextSymbol k w = some b ↔
      k ≤ b.toNat ∧ w.freqAt b ≠ 0 ∧ ∀ b' : Byte, k ≤ b'.toNat → b'.toNat < b.toNat → w.freqAt b' = 0 := by
  rw [nextSymbol_eq, List.find?_eq_some_iff_append]
  constructor
  · rintro ⟨h, l, r, hs, hl⟩
    simp only [Bool.and_eq_true, decide_eq_true_eq, bne_iff_ne] at h
    refine ⟨h.1, h.2, fun b' hk hlt => ?_⟩
    have hb' : b' ∈ l := by
      have hm := mem_symbols b'
      have hp := symbols_ascend
      rw [hs, List.mem_append, List.mem_cons] at hm
      rw [hs, List.map_append, List.map_cons, List.pairwise_append, List.pairwise_cons] at hp
      rcases hm with hm | rfl | hm
      · exact hm
      · exact absurd hlt (Nat.lt_irrefl _)
      · have := hp.2.1.1 _ (List.mem_map_of_mem hm)
        omega
    have := hl b' hb'
    simp only [Bool.not_and, Bool.or_eq_true, Bool.not_eq_true', decide_eq_false_iff_not, bne_eq_false_iff_eq] at this
    exact this.resolve_left (fun hn => hn hk)
  · rintro ⟨hk, hf, hlow⟩
    refine ⟨by rw [decide_eq_true hk]; exact bne_iff_ne.2 hf, ?_⟩
    obtain ⟨l, r, hs⟩ := List.append_of_mem (mem_symbols b)
    refine ⟨l, r, hs, fun b' hb' => ?_⟩
    have hp := symbols_ascend
    rw [hs, List.map_append, List.map_cons, List.pairwise_append] at hp
    have hlt := hp.2.2 _ (List.mem_map_of_mem hb') _ List.mem_cons_self
    by_cases h : k ≤ b'.toNat
    · simp [hlow b' h hlt]
    · simp [h]

theorem nextSymbol_eq_none {k : Nat} {w : Work} :
    nextSymbol k w = none ↔ ∀ b : Byte, k ≤ b.toNat → w.freqAt b = 0 := by
  rw [nextSymbol_eq, List.find?_eq_none]
  simp

/-- All that the leaf scan can do, in the words of the statements (R107, R138, R139). -/
theorem leafScan_scansFrom (k : Nat) (s : State) : Safety.BuildScansFrom k (leafScan k s) := by
  cases h : nextSymbol k s.work with
  | some b =>
    obtain ⟨hk, hf, hlow⟩ := nextSymbol_eq_some.1 h
    rw [leafScan_some h]
    refine .inl ⟨b, hk, hf, hlow, rfl, ?_⟩
    have := b.isLt
    simp only [State.setPhase_work, State.setWork_work, Work.setScan_scan, BitVec.toNat_setWidth]
    omega
  | none =>
    rw [leafScan_none h]
    exact .inr ⟨nextSymbol_eq_none.1 h, rfl, rfl⟩

/-- The next value of IPTR, where another byte of IN or its end is there to be reached. -/
theorem iptr_add_one {s : State} (h : s.work.iptr.toNat + 1 ≤ s.inLen.toNat) :
    (s.work.iptr + 1).toNat = s.work.iptr.toNat + 1 := by
  have := s.inLen.isLt
  rw [BitVec.toNat_add]
  exact Nat.mod_eq_of_lt (show s.work.iptr.toNat + 1 < 2 ^ 64 by omega)

/-- FSCAN goes on to the next byte (R105, R107). -/
theorem afterFacc_more {s : State} (h : s.work.iptr.toNat + 1 < s.inLen.toNat) :
    afterFacc s = (s.setWork (s.work.setIptr (s.work.iptr + 1))).setPhase 0x11 :=
  if_pos ((iptr_add_one (Nat.le_of_lt h)).trans_lt h)

/-- FSCAN is over and BUILD begins (R105, R107). -/
theorem afterFacc_last {s : State} (h : s.work.iptr.toNat + 1 = s.inLen.toNat) :
    afterFacc s = leafScan 0 (s.setWork (s.work.setIptr (s.work.iptr + 1))) :=
  if_neg (Nat.not_lt.2 (h.ge.trans_eq (iptr_add_one h.le).symm))

/-- PAYLOAD goes on to the next byte, or to FIN (R107, R180). -/
theorem afterPushc_eq {s : State} (h : s.work.iptr.toNat + 1 ≤ s.inLen.toNat) :
    afterPushc s = (s.setWork (s.work.setIptr (s.work.iptr + 1))).setPhase
      (if s.work.iptr.toNat + 1 < s.inLen.toNat then 0x1A else 0x1B) := by
  rw [← iptr_add_one h]
  unfold afterPushc
  dsimp only
  by_cases hc : (s.work.iptr + 1).toNat < s.inLen.toNat
  · rw [if_pos hc]
    exact if_pos hc
  · rw [if_neg hc]
    exact if_neg hc

/-- The walk's loop writes PHASE alone (R222). -/
theorem walkLoop_eq (s : State) :
    walkLoop s = s.setPhase (if s.work.rbits.toNat < s.work.tbits.toNat then 0x1D else 0x21) := by
  unfold walkLoop
  split <;> rfl

end Sys2Proof.Machine
end

