-- ==== Sys2Proof/Laws/Status.lean ====
section
/-! SUPPORT. The fields of the STATUS words that END and the abort sequence write (R25, R106, R246). -/

namespace Sys2Proof.Machine

section Word
variable (done fail empty : Bit) (cause detail : BitVec 4) (stage lastcmd : Byte)

@[simp] theorem statusDone_word : statusDone (statusWord done fail empty cause detail stage lastcmd) = done :=
  BitVec.extractLsb'_append_eq_right

@[simp] theorem statusFail_word : statusFail (statusWord done fail empty cause detail stage lastcmd) = fail := by
  unfold statusFail statusWord
  rw [BitVec.extractLsb'_append_eq_of_le (by decide)]
  exact BitVec.extractLsb'_append_eq_right

@[simp] theorem statusEmpty_word : statusEmpty (statusWord done fail empty cause detail stage lastcmd) = empty := by
  unfold statusEmpty statusWord
  iterate 2 rw [BitVec.extractLsb'_append_eq_of_le (by decide)]
  exact BitVec.extractLsb'_append_eq_right

@[simp] theorem statusCause_word : statusCause (statusWord done fail empty cause detail stage lastcmd) = cause := by
  unfold statusCause statusWord
  iterate 4 rw [BitVec.extractLsb'_append_eq_of_le (by decide)]
  exact BitVec.extractLsb'_append_eq_right

@[simp] theorem statusDetail_word : statusDetail (statusWord done fail empty cause detail stage lastcmd) = detail := by
  unfold statusDetail statusWord
  iterate 5 rw [BitVec.extractLsb'_append_eq_of_le (by decide)]
  exact BitVec.extractLsb'_append_eq_right

@[simp] theorem statusStage_word : statusStage (statusWord done fail empty cause detail stage lastcmd) = stage := by
  unfold statusStage statusWord
  iterate 7 rw [BitVec.extractLsb'_append_eq_of_le (by decide)]
  exact BitVec.extractLsb'_append_eq_right

@[simp] theorem statusLastcmd_word :
    statusLastcmd (statusWord done fail empty cause detail stage lastcmd) = lastcmd := by
  unfold statusLastcmd statusWord
  iterate 7 rw [BitVec.extractLsb'_append_eq_of_le (by decide)]
  exact BitVec.extractLsb'_append_eq_left

@[simp] theorem statusReservedZero_word :
    statusReservedZero (statusWord done fail empty cause detail stage lastcmd) = true := by
  have h3 : (statusWord done fail empty cause detail stage lastcmd).extractLsb' 3 1 = 0#1 := by
    unfold statusWord
    iterate 3 rw [BitVec.extractLsb'_append_eq_of_le (by decide)]
    exact BitVec.extractLsb'_append_eq_right
  have h12 : (statusWord done fail empty cause detail stage lastcmd).extractLsb' 12 4 = 0#4 := by
    unfold statusWord
    iterate 6 rw [BitVec.extractLsb'_append_eq_of_le (by decide)]
    exact BitVec.extractLsb'_append_eq_right
  simp [statusReservedZero, h3, h12]

end Word

section Written
variable (c : BitVec 4) (op stage : Byte) (e : Raise)

@[simp] theorem statusDone_end : statusDone (endStatus c op) = 1 := statusDone_word ..
@[simp] theorem statusFail_end : statusFail (endStatus c op) = 0 := statusFail_word ..
@[simp] theorem statusEmpty_end : statusEmpty (endStatus c op) = if c = 2 then 1 else 0 := statusEmpty_word ..
@[simp] theorem statusCause_end : statusCause (endStatus c op) = c := statusCause_word ..
@[simp] theorem statusDetail_end : statusDetail (endStatus c op) = 0 := statusDetail_word ..
@[simp] theorem statusStage_end : statusStage (endStatus c op) = 0 := statusStage_word ..
@[simp] theorem statusLastcmd_end : statusLastcmd (endStatus c op) = op := statusLastcmd_word ..
@[simp] theorem statusReservedZero_end : statusReservedZero (endStatus c op) = true := statusReservedZero_word ..

@[simp] theorem statusDone_abort : statusDone (abortStatus e stage op) = 1 := statusDone_word ..
@[simp] theorem statusFail_abort : statusFail (abortStatus e stage op) = 1 := statusFail_word ..
@[simp] theorem statusEmpty_abort : statusEmpty (abortStatus e stage op) = 0 := statusEmpty_word ..
@[simp] theorem statusCause_abort : statusCause (abortStatus e stage op) = e.cause := statusCause_word ..
@[simp] theorem statusDetail_abort : statusDetail (abortStatus e stage op) = e.detail := statusDetail_word ..
@[simp] theorem statusStage_abort : statusStage (abortStatus e stage op) = stage := statusStage_word ..
@[simp] theorem statusLastcmd_abort : statusLastcmd (abortStatus e stage op) = op := statusLastcmd_word ..
@[simp] theorem statusReservedZero_abort : statusReservedZero (abortStatus e stage op) = true :=
  statusReservedZero_word ..

end Written

end Sys2Proof.Machine
end

