-- ==== Sys2Proof/Laws/Tree.lean ====
section
/-! SUPPORT. The laws of the tree builder: creating a node (R136, R137, R141). -/

namespace Sys2Proof.Machine

theorem nextIx_toNat {s : State} (h : s.work.nnodes.toNat < 511) : (nextIx s).toNat = s.work.nnodes.toNat := by
  simp only [nextIx, BitVec.toNat_setWidth]
  exact Nat.mod_eq_of_lt (by omega)

/-- Creating a node where arena and heap have room. -/
theorem addNode_of_room {nd : Node} {s : State} (hn : s.work.nnodes.toNat < 511) (hh : s.work.hsize.toNat < 256) :
    addNode nd s = .ok () (s.setWork
      ((((s.work.setNode (nextIx s) nd).setNnodes (s.work.nnodes + 1))).setHeap
        (heapAdd (nextIx s) s.work.heap) (s.work.hsize + 1))) := by
  unfold addNode
  rw [if_neg (by unfold Config.nodeCap; omega), putWork_eq, Res.bind_ok, heapInsert_of_room (by simpa using hh)]
  rfl

/-- Creating a node on a full arena (R136, R141). -/
theorem addNode_arena {nd : Node} {s : State} (hn : 511 ≤ s.work.nnodes.toNat) :
    addNode nd s = .raise .guardArena s := by
  unfold addNode
  rw [if_pos (by unfold Config.nodeCap; omega)]

/-- Creating a node on a full heap (R122). -/
theorem addNode_heap {nd : Node} {s : State} (hn : s.work.nnodes.toNat < 511) (hh : 256 ≤ s.work.hsize.toNat) :
    addNode nd s =
      .raise .guardHeap (s.setWork ((s.work.setNode (nextIx s) nd).setNnodes (s.work.nnodes + 1))) := by
  unfold addNode
  rw [if_neg (by unfold Config.nodeCap; omega), putWork_eq, Res.bind_ok, heapInsert_full (by simpa using hh)]

/-- The Symbol operand of LEAF (R136). -/
theorem scanSymbol_of_symbol {s : State} {b : Byte} (h : s.work.scan.toNat = b.toNat) : scanSymbol s = .ok b s := by
  unfold scanSymbol
  rw [if_pos (by have := b.isLt; omega)]
  congr 1
  apply BitVec.eq_of_toNat_eq
  simp only [BitVec.toNat_setWidth]
  have := b.isLt
  omega

/-! ### The heap of a state in which HEAP is well formed -/

theorem HeapOk.nil_notMem {w : Work} (h : Safety.HeapOk w) (hn : w.nnodes.toNat ≤ 511) : Config.nil ∉ w.heap := by
  intro hm
  have h1 := h.2.2.2 _ hm
  have h2 : Config.nil.toNat = 511 := rfl
  omega

theorem HeapOk.nodup {w : Work} (h : Safety.HeapOk w) : w.heap.Nodup :=
  List.Nodup.of_map _ (h.1.imp Nat.ne_of_lt)

/-- HEXT on a well-formed heap with a member: it takes the least key and leaves the heap well formed. -/
theorem heapExtract_ok {s : State} (h : Safety.HeapOk s.work) (hn : s.work.nnodes.toNat ≤ 511)
    (h1 : 1 ≤ s.work.hsize.toNat) :
    ∃ i, heapExtract s = .ok i (s.setWork (s.work.setHeap (s.work.heap.erase i) (s.work.hsize - 1))) ∧
      i ∈ s.work.heap ∧ (∀ j ∈ s.work.heap, j ≠ i → s.work.keyLt i j = true) ∧
      (s.work.hsize - 1).toNat = s.work.hsize.toNat - 1 ∧
      Safety.HeapOk (s.work.setHeap (s.work.heap.erase i) (s.work.hsize - 1)) := by
  have hs : (s.work.hsize - 1).toNat = s.work.hsize.toNat - 1 := by bv_omega
  have h0 : s.work.hsize ≠ 0 := by
    intro hc
    rw [hc] at h1
    exact absurd h1 (by decide)
  have hne : s.work.heap ≠ [] := by
    intro hc
    have := h.2.1
    rw [hc] at this
    simp only [List.length_nil] at this
    omega
  obtain ⟨i, hi, he⟩ := heapExtract_some h0 hne (HeapOk.nil_notMem h hn)
  obtain ⟨hm, hl⟩ := leastOf_spec hi
  refine ⟨i, he, hm, hl, hs, h.1.sublist (List.erase_sublist.map _), ?_, ?_, fun j hj => ?_⟩
  · rw [Work.setHeap_hsize, Work.setHeap_heap, hs, List.length_erase_of_mem hm, h.2.1]
  · have := h.2.2.1
    rw [Work.setHeap_hsize, hs]
    omega
  · exact h.2.2.2 j (List.mem_of_mem_erase hj)

/-- Creating a node keeps the heap well formed. -/
theorem heapOk_addNode {s : State} (nd : Node) (h : Safety.HeapOk s.work) (hn : s.work.nnodes.toNat < 511)
    (hh : s.work.hsize.toNat < 256) :
    Safety.HeapOk ((((s.work.setNode (nextIx s) nd).setNnodes (s.work.nnodes + 1))).setHeap
        (heapAdd (nextIx s) s.work.heap) (s.work.hsize + 1)) := by
  have hx := nextIx_toNat hn
  have hs : (s.work.hsize + 1).toNat = s.work.hsize.toNat + 1 := by bv_omega
  have hnn : (s.work.nnodes + 1).toNat = s.work.nnodes.toNat + 1 := by bv_omega
  have hnew : nextIx s ∉ s.work.heap := fun hm => by have := h.2.2.2 _ hm; omega
  refine ⟨heapAdd_sorted h.1, ?_, ?_, fun j hj => ?_⟩
  · rw [Work.setHeap_hsize, Work.setHeap_heap, hs, heapAdd_length hnew, h.2.1]
  · rw [Work.setHeap_hsize, hs]
    omega
  · rw [Work.setHeap_nnodes, Work.setNnodes_nnodes, hnn]
    rcases mem_heapAdd.1 hj with hj | rfl
    · have := h.2.2.2 j hj
      omega
    · omega

/-- Creating a node whose children are in use keeps the arena well formed (R31, R148). -/
theorem arenaOk_addNode {s : State} {nd : Node} (h : Safety.ArenaOk s.work) (hn : s.work.nnodes.toNat < 511)
    (hnd : nd.tag = .internal → nd.left.toNat < s.work.nnodes.toNat ∧ nd.right.toNat < s.work.nnodes.toNat)
    (l : List NodeIx) (z : BitVec 9) :
    Safety.ArenaOk ((((s.work.setNode (nextIx s) nd).setNnodes (s.work.nnodes + 1))).setHeap l z) := by
  have hx := nextIx_toNat hn
  have hnn : (s.work.nnodes + 1).toNat = s.work.nnodes.toNat + 1 := by bv_omega
  refine ⟨?_, fun i x hi hxi ht => ?_⟩
  · rw [Work.setHeap_nnodes, Work.setNnodes_nnodes, hnn]
    omega
  · rw [Work.setHeap_nnodes, Work.setNnodes_nnodes, hnn] at hi
    by_cases he : i = nextIx s
    · subst he
      have := (Work.nodeAt_setNode_same s.work nd (by omega : (nextIx s).toNat < 511)).symm.trans hxi
      cases this
      rw [hx]
      exact hnd ht
    · have hxi' : s.work.nodeAt i = some x := (Work.nodeAt_setNode_ne s.work nd he).symm.trans hxi
      refine h.2 i x ?_ hxi' ht
      have : i.toNat ≠ (nextIx s).toNat := fun hc => he (BitVec.eq_of_toNat_eq hc)
      omega

end Sys2Proof.Machine
end

