-- ==== Sys2Proof/Tests/Slice0.lean ====
section
/-! SUPPORT. The model's own tests. Expected values come from spec/: the opcode map of R73, the vectors of
spec/95_test_vectors.md (named by their ids) and the rules. The theorems `test_..._hyps` show states and operands that
meet the hypotheses of a statement. -/

namespace Sys2Proof.Tests

-- The kernel evaluations of these tests run one after another.
set_option Elab.async false

open Sys2Proof.Machine Sys2Proof.Safety Sys2Proof.Reference

/-! ### Helpers -/

/-- The outcome is a next state with the property. -/
def nextHas (o : Host.Outcome State Fault Refusal) (p : State → Bool) : Bool :=
  match o with
  | .next t => p t
  | .fault _ => false
  | .refused _ => false

theorem exists_next {o : Host.Outcome State Fault Refusal} {p : State → Prop} [DecidablePred p]
    (h : nextHas o (fun t => decide (p t)) = true) : ∃ t, o = .next t ∧ p t := by
  cases o with
  | next t => exact ⟨t, rfl, of_decide_eq_true h⟩
  | fault _ => cases h
  | refused _ => cases h

theorem completes_of {s : State} {p : State → Prop} [DecidablePred p] (fuel : Nat)
    (h : nextHas (runToIdle (fuel + 1) s) (fun t => decide (t.phase = 0x00 ∧ p t)) = true) :
    ∃ t, CompletesIn s t ∧ p t := by
  obtain ⟨t, ht, h0, hp⟩ := exists_next h
  exact ⟨t, ⟨fuel + 1, ht, h0, Nat.succ_pos _⟩, hp⟩

/-- A buffer holding these bytes from offset 0 on. -/
def buf (l : List Byte) : Memory := (List.range l.length).zip l

/-- HUFFCORE idle with IN holding these bytes, IN_OK set, and the command `c` written. -/
def issued (c : Byte) (input : List Byte) (cap : Word) : State :=
  { State.reset with inLen := BitVec.ofNat 64 input.length, outCap := cap, inOk := 1, inBuf := buf input, cmd := some c }

/-- The operation with opcode `p` running in the command `op` with this working state, room for 64 bytes of output. -/
def running (op p : Byte) (w : Work) : State := { State.reset with phase := p, op := op, work := w, outCap := 64, inOk := 1 }

/-- The same with these bytes in IN. -/
def reading (op p : Byte) (w : Work) (input : List Byte) : State :=
  { running op p w with inBuf := buf input, inLen := BitVec.ofNat 64 input.length }

/-- A writer with these registers. -/
def writer (acc : BitVec 8) (held : BitVec 4) (wbits tbits : Word) : Work :=
  ((Work.reset.setAcc acc held).setWbits wbits).setTbits tbits

/-- Leaves of these weights at n0, n1, ..., all in HEAP. -/
def leaves (l : List (Byte × Word)) : Work :=
  l.foldl (fun w x => ((w.setNode (w.nnodes.setWidth 9) (leafNode x.1 x.2)).setNnodes (w.nnodes + 1)).setHeap
    (w.heap ++ [w.nnodes.setWidth 9]) (w.hsize + 1)) Work.reset

/-- The tree T2: one Leaf. -/
def treeT2 : Work := (leaves [(0x5A, 1)]).setRoot 0

/-- The tree T5: n0 = Leaf(a,3), n1 = Leaf(b,1), n2 = Int(4, L n1, R n0). -/
def treeT5 : Work :=
  ((((leaves [(0x61, 3), (0x62, 1)]).setNode 2 (internalNode 4 1 0)).setNnodes 3).setHeap [] 0).setRoot 2

/-- The tree T3: a, b, c once each. -/
def treeT3 : Work :=
  (((((leaves [(0x61, 1), (0x62, 1), (0x63, 1)]).setNode 3 (internalNode 2 0 1)).setNode 4
    (internalNode 3 2 3)).setNnodes 5).setHeap [] 0).setRoot 4

/-- Artifact A1 (vector A1). -/
def artifactA1 : List Byte :=
  [2, 0, 0, 0, 0x61, 3, 0, 0, 0, 0, 0, 0, 0, 0x62, 1, 0, 0, 0, 0, 0, 0, 0] ++ [4, 4, 0, 0, 0, 0, 0, 0, 0, 0xE0]

/-- Artifact A3 (vector A3). -/
def artifactA3 : List Byte := [1, 0, 0, 0, 0x5A, 1, 0, 0, 0, 0, 0, 0, 0] ++ [1, 1, 0, 0, 0, 0, 0, 0, 0] ++ [0]

/-- The tables of A3's header: FREQ[0x5A] = 1 with the code "0". -/
def tableA3 : Work := (Work.reset.setFreq 0x5A 1).setCode 0x5A [0]

/-! ### WellFormed: an ill-formed placement for each check (R23, R72) -/

theorem test_wellFormed_cmd_takes_commands :
    Instr.encode.wellFormedAt .cmd = true ∧ Instr.decode.wellFormedAt .cmd = true ∧
    Instr.clr.wellFormedAt .cmd = false ∧ Instr.push1.wellFormedAt .cmd = false := by decide

theorem test_wellFormed_phase_takes_micro_operations :
    Instr.clr.wellFormedAt .phase = true ∧ Instr.hins.wellFormedAt .phase = false ∧
    Instr.hext.wellFormedAt .phase = false ∧ Instr.push1.wellFormedAt .phase = false ∧
    Instr.encode.wellFormedAt .phase = false := by decide

theorem test_wellFormed_call_takes_subroutines :
    Instr.hins.wellFormedAt .call = true ∧ Instr.hext.wellFormedAt .call = true ∧
    Instr.push1.wellFormedAt .call = true ∧ Instr.leaf.wellFormedAt .call = false ∧
    Instr.decode.wellFormedAt .call = false := by decide

/-- The step refuses each ill-formed placement by name. -/
theorem test_step_refuses_illFormed :
    step { State.reset with cmd := some 0x10 } = .refused (.reservedCommand 0x10) ∧
    step { State.reset with phase := 0x13, op := 0x01 } = .refused (.illegalPhase 0x13) ∧
    step { State.reset with sub := some 0x12 } = .refused (.illegalCall 0x12) := ⟨rfl, rfl, rfl⟩

/-! ### Decoding: every operation's opcode of R73, bit by bit -/

theorem test_decode_commands :
    decode [0b00000001] = .ok (.encode, []) ∧ decode [0b00000010] = .ok (.decode, []) := ⟨rfl, rfl⟩

theorem test_decode_sequencing :
    decode [0b00010000] = .ok (.clr, []) ∧ decode [0b00010001] = .ok (.facc, []) ∧
    decode [0b00011111] = .ok (.endCmd, []) := ⟨rfl, rfl, rfl⟩

theorem test_decode_heap_and_tree :
    decode [0b00010010] = .ok (.leaf, []) ∧ decode [0b00010011] = .ok (.hins, []) ∧
    decode [0b00010100] = .ok (.hext, []) ∧ decode [0b00010101] = .ok (.merge, []) ∧
    decode [0b00010110] = .ok (.root, []) ∧ decode [0b00010111] = .ok (.cgen, []) := ⟨rfl, rfl, rfl, rfl, rfl, rfl⟩

theorem test_decode_writer_and_header :
    decode [0b00011000] = .ok (.hser, []) ∧ decode [0b00011001] = .ok (.push1, []) ∧
    decode [0b00011010] = .ok (.pushc, []) ∧ decode [0b00011011] = .ok (.fin, []) ∧
    decode [0b00011100] = .ok (.hpar, []) := ⟨rfl, rfl, rfl, rfl, rfl⟩

theorem test_decode_reader :
    decode [0b00011101] = .ok (.getb, []) ∧ decode [0b00011110] = .ok (.walk1, []) ∧
    decode [0b00100000] = .ok (.wbeg, []) ∧ decode [0b00100001] = .ok (.wfin, []) := ⟨rfl, rfl, rfl, rfl⟩

/-- IDLE, the gaps of the map and its ends are no operations; the byte behind an opcode is given back. -/
theorem test_decode_reserved :
    decode [0x00] = .error (.reserved 0x00) ∧ decode [0x03] = .error (.reserved 0x03) ∧
    decode [0x0F] = .error (.reserved 0x0F) ∧ decode [0x22] = .error (.reserved 0x22) ∧
    decode [0xFF] = .error (.reserved 0xFF) ∧ decode [] = .error .noByte ∧
    decode [0x01, 0xFF] = .ok (.encode, [0xFF]) := ⟨rfl, rfl, rfl, rfl, rfl, rfl, rfl⟩

/-! ### One step of each operation -/

/-- R100: ENCODE of 4 bytes starts with CLR. -/
theorem test_encode_starts :
    nextHas (step (issued 0x01 [0x61, 0x61, 0x61, 0x62] 64)) (fun t => t.phase == 0x10 && t.op == 0x01) = true := by
  decide +kernel

/-- Vector I1: STATUS 0x01010113. -/
theorem test_encode_notOk :
    nextHas (step { State.reset with cmd := some 0x01 }) (fun t => t.status == 0x01010113) = true := by decide +kernel

/-- Vector I4: IN_LEN = MAX_IN_LEN + 1. -/
theorem test_decode_tooLong :
    nextHas (step { State.reset with cmd := some 0x02, inOk := 1, inLen := 0x100000000 })
      (fun t => t.status == 0x02020213 && t.outLen == 0) = true := by decide +kernel

/-- Vector I12: detail 1 is tested first. -/
theorem test_decode_notOk_first :
    nextHas (step { State.reset with cmd := some 0x02, inLen := 0x100000000 })
      (fun t => t.status == 0x02020113) = true := by decide +kernel

/-- Vector Q1. -/
theorem test_clr_fresh :
    nextHas (exec .clr (reading 0x01 0x10 { treeT5 with acc := 7, wbits := 9 } [0x61]))
      (fun t => t.work.nnodes == 0 && t.work.root == 0x1FF && t.work.acc == 0 && t.work.wbits == 0) = true := by
  decide +kernel

/-- Program P4: an empty DECODE goes from CLR to END 2. -/
theorem test_clr_empty_decode :
    nextHas (exec .clr (running 0x02 0x10 Work.reset)) (fun t => t.phase == 0x1F && t.endArg == 2) = true := by
  decide +kernel

/-- Vector Q3: no wrap at 2^56. -/
theorem test_facc_no_wrap :
    nextHas (exec .facc (reading 0x01 0x11 (Work.reset.setFreq 0xFF 0xFFFFFFFFFFFFFF) [0xFF, 0x00]))
      (fun t => t.work.freqAt 0xFF == 0x100000000000000 && t.work.freqAt 0x00 == 0) = true := by decide +kernel

/-- Program P1: the last FACC goes to LEAF of the first Symbol counted. -/
theorem test_facc_last :
    nextHas (exec .facc (reading 0x01 0x11 ((Work.reset.setFreq 0x61 3).setIptr 3) [0x61, 0x61, 0x61, 0x62]))
      (fun t => t.phase == 0x12 && t.work.scan == 0x61) = true := by decide +kernel

/-- Program P1: n1 = Leaf{0x62, 1}, then MERGE. -/
theorem test_leaf_second :
    nextHas (exec .leaf (running 0x01 0x12 (((leaves [(0x61, 3)]).setFreq 0x62 1).setScan 0x62)))
      (fun t => t.work.nodeAt 1 == some ⟨.leaf, 0x62, 1, 0x1FF, 0x1FF⟩ && t.work.heap == [0, 1] &&
        t.phase == 0x15) = true := by decide +kernel

/-- Vector H1. -/
theorem test_hins_first :
    nextHas (exec .hins { running 0x01 0x12 Work.reset with hArg := 0 })
      (fun t => t.work.heap == [0] && t.work.hsize == 1) = true := by decide +kernel

/-- Vector H9: InternalGuard(1), with the STAGE of the operation in PHASE. -/
theorem test_hins_full :
    nextHas (exec .hins (running 0x01 0x12 { Work.reset with hsize := 256 }))
      (fun t => t.status == 0x01120163) = true := by decide +kernel

/-- Vector H3: the lower index wins among equal weights. -/
theorem test_hext_tie :
    nextHas (exec .hext (running 0x01 0x15 ((((leaves [(0, 5), (1, 2)]).setNode 4 (leafNode 4 2)).setNode 5
      (leafNode 5 2)).setHeap [0, 1, 4, 5] 4))) (fun t => t.hArg == 1 && t.work.heap == [0, 4, 5]) = true := by
  decide +kernel

/-- Vector H7: weights are unsigned. -/
theorem test_hext_unsigned :
    nextHas (exec .hext (running 0x01 0x15 (((Work.reset.setNode 2 (leafNode 2 0x8000000000000000)).setNode 9
      (leafNode 9 0x7FFFFFFFFFFFFFFF)).setHeap [2, 9] 2))) (fun t => t.hArg == 9) = true := by decide +kernel

/-- Vector T5: the lighter node is extracted first and goes left. -/
theorem test_merge_lighter_left :
    nextHas (exec .merge (running 0x01 0x15 (leaves [(0x61, 3), (0x62, 1)])))
      (fun t => t.work.nodeAt 2 == some ⟨.internal, 0, 4, 1, 0⟩ && t.work.heap == [2] && t.phase == 0x16) = true := by
  decide +kernel

/-- Vector T9: the sum 2^64 - 1 fits. -/
theorem test_merge_largest :
    nextHas (exec .merge (running 0x02 0x15 (leaves [(0, 0x8000000000000000), (1, 0x7FFFFFFFFFFFFFFF)])))
      (fun t => t.work.nodeAt 2 == some ⟨.internal, 0, 0xFFFFFFFFFFFFFFFF, 1, 0⟩) = true := by decide +kernel

/-- Vector T2: ROOT = n0. -/
theorem test_root_single :
    nextHas (exec .root (running 0x01 0x16 (leaves [(0x5A, 1)])))
      (fun t => t.work.root == 0 && t.work.hsize == 0 && t.phase == 0x17) = true := by decide +kernel

/-- Vector T1 and program P4: ROOT = NIL, and ENCODE ends with END 2. -/
theorem test_root_none :
    nextHas (exec .root (running 0x01 0x16 Work.reset))
      (fun t => t.work.root == 0x1FF && t.phase == 0x1F && t.endArg == 2) = true := by decide +kernel

/-- Vector G3. -/
theorem test_cgen_paths :
    nextHas (exec .cgen (running 0x01 0x17 treeT3))
      (fun t => t.work.codeAt 0x61 == some [1, 0] && t.work.codeAt 0x62 == some [1, 1] &&
        t.work.codeAt 0x63 == some [0] && t.work.clen 0x64 == 0) = true := by decide +kernel

/-- Vector G1. -/
theorem test_cgen_single :
    nextHas (exec .cgen (running 0x01 0x17 treeT2)) (fun t => t.work.codeAt 0x5A == some [0]) = true := by
  decide +kernel

/-- The header of artifact A3. -/
theorem test_hser_bytes :
    nextHas (exec .hser (reading 0x01 0x18 tableA3 [0x5A]))
      (fun t => t.outBuf == buf (artifactA3.take 22) && t.outLen == 22) = true := by decide +kernel

/-- Vector I5 in the small: a header of 22 bytes into 21. -/
theorem test_hser_full :
    nextHas (exec .hser { reading 0x01 0x18 tableA3 [0x5A] with outCap := 21 })
      (fun t => t.status == 0x01180313) = true := by decide +kernel

/-- Vector W3: the eighth bit completes the byte. -/
theorem test_push1_eighth :
    nextHas (exec .push1 { running 0x01 0x1A (writer 0x0D 7 7 8) with bArg := 0 })
      (fun t => t.work.acc == 0 && t.work.held == 0 && t.work.wbits == 8 && t.outBuf == [(0, 0x1A)]) = true := by
  decide +kernel

/-- Vector W11: OUT full; STAGE is PUSHC (vector I8). -/
theorem test_push1_full :
    nextHas (exec .push1 { running 0x01 0x1A (writer 0x7F 7 7 8) with bArg := 1, outCap := 0 })
      (fun t => t.status == 0x011A0313) = true := by decide +kernel

/-- Vector W10: the code straddles the byte boundary. -/
theorem test_pushc_straddles :
    nextHas (exec .pushc (reading 0x01 0x1A ((writer 0x3F 6 6 9).setCode 0x61 [1, 0, 1]) [0x61]))
      (fun t => t.work.acc == 0x01 && t.work.held == 1 && t.work.wbits == 9 && t.outBuf == [(0, 0xFE)]) = true := by
  decide +kernel

/-- Vector W9: first path bit first. -/
theorem test_pushc_first_bit_first :
    nextHas (exec .pushc (reading 0x01 0x1A ((writer 0x03 2 2 5).setCode 0x61 [1, 1, 0]) [0x61]))
      (fun t => t.work.acc == 0x1E && t.work.held == 5) = true := by decide +kernel

/-- Vector W8. -/
theorem test_fin_pads :
    nextHas (exec .fin (running 0x01 0x1B (writer 0x6E 7 23 23)))
      (fun t => t.outBuf == [(0, 0xDC)] && t.work.held == 0) = true := by decide +kernel

/-- Vector W6: nothing held, nothing emitted. -/
theorem test_fin_nothing_held :
    nextHas (exec .fin (running 0x01 0x1B (writer 0 0 8 8)))
      (fun t => t.outLen == 0 && t.phase == 0x1F && t.endArg == 0) = true := by decide +kernel

/-- Vector C5. -/
theorem test_hpar_fields :
    nextHas (exec .hpar (reading 0x02 0x1C Work.reset artifactA1))
      (fun t => t.work.scount == 2 && t.work.freqAt 0x61 == 3 && t.work.freqAt 0x62 == 1 && t.work.vbits == 4 &&
        t.work.tbits == 4 && t.work.pbase == 31) = true := by decide +kernel

/-- Vector E3: the count is signed, and its range is checked before the header's length. -/
theorem test_hpar_negative_count :
    nextHas (exec .hpar (reading 0x02 0x1C Work.reset [0xFF, 0xFF, 0xFF, 0xFF]))
      (fun t => t.status == 0x021C0133) = true := by decide +kernel

/-- Vector K3: bit 7 of 0x8A is the bit at RBITS 8. -/
theorem test_getb_msb_first :
    nextHas (exec .getb (reading 0x02 0x1D ({ Work.reset with rbits := 8 }.setTbits 24) [0x6E, 0x8A, 0xDC]))
      (fun t => t.work.bit == 1 && t.work.rbits == 9) = true := by decide +kernel

/-- Vector K4: bit 1 of 0xDC is the bit at RBITS 22. -/
theorem test_getb_low_bit :
    nextHas (exec .getb (reading 0x02 0x1D ({ Work.reset with rbits := 22 }.setTbits 24) [0x6E, 0x8A, 0xDC]))
      (fun t => t.work.bit == 0 && t.work.rbits == 23) = true := by decide +kernel

/-- Vector K7: the left child of n3 is a Leaf. -/
theorem test_walk1_emits :
    nextHas (exec .walk1 (running 0x02 0x1E (treeT3.setCursor 3)))
      (fun t => t.outBuf == [(0, 0x61)] && t.work.cursor == 4) = true := by decide +kernel

/-- Vector K6: CURSOR moves, nothing is emitted. -/
theorem test_walk1_moves :
    nextHas (exec .walk1 (running 0x02 0x1E ((treeT3.setCursor 4).setBit 1 1)))
      (fun t => t.outLen == 0 && t.work.cursor == 3) = true := by decide +kernel

/-- Program P1: STATUS 0x01000001. -/
theorem test_end_success :
    nextHas (exec .endCmd (running 0x01 0x1F Work.reset)) (fun t => t.status == 0x01000001 && t.phase == 0) = true := by
  decide +kernel

/-- Program P4: STATUS 0x02000025. -/
theorem test_end_empty :
    nextHas (exec .endCmd { running 0x02 0x1F Work.reset with endArg := 2 }) (fun t => t.status == 0x02000025) = true := by
  decide +kernel

/-- Vector K9. -/
theorem test_wbeg_empty :
    nextHas (exec .wbeg (running 0x02 0x20 (Work.reset.setRoot 0x1FF)))
      (fun t => t.phase == 0x1F && t.endArg == 2) = true := by decide +kernel

/-- Vectors K10 and E11. -/
theorem test_wbeg_noTree :
    nextHas (exec .wbeg (running 0x02 0x20 ((Work.reset.setRoot 0x1FF).setTbits 1)))
      (fun t => t.status == 0x02200533) = true := by decide +kernel

/-- Vectors K12 and E13. -/
theorem test_wfin_midCode :
    nextHas (exec .wfin (running 0x02 0x21 (treeT3.setCursor 3))) (fun t => t.status == 0x02210633) = true := by
  decide +kernel

/-- Vector K13. -/
theorem test_wfin_atRoot :
    nextHas (exec .wfin (running 0x02 0x21 (treeT3.setCursor 4)))
      (fun t => t.phase == 0x1F && t.endArg == 0) = true := by decide +kernel

/-! ### The host -/

/-- Vector Z1: after reset STATUS reads 0; a host that has no move leaves HUFFCORE idle. -/
theorem test_reset_status :
    nextHas (hostAccess (.regRead 0x04) State.reset) (fun t => t.hostData == 0) = true ∧
    step State.reset = .next State.reset := ⟨by decide +kernel, rfl⟩

/-- R26: the host's write of CMD is taken by a step of its own; R28: the register window. -/
theorem test_host_writes :
    nextHas (step { State.reset with hostQ := [.regWrite 0x00 0x01] })
      (fun t => t.cmd == some 0x01 && t.hostQ == []) = true ∧
    nextHas (step { State.reset with hostQ := [.regWrite 0x20 0xFFFFFFFF] }) (fun t => t.inOk == 1) = true ∧
    step { State.reset with hostQ := [.regWrite 0x04 1] } = .refused (.hostAccess 0x04) := by
  refine ⟨by decide +kernel, by decide +kernel, rfl⟩

/-! ### States that meet the hypotheses of the statements -/

theorem loaded_of_all {s : State} (h : (List.range s.inLen.toNat).all (fun a => (s.inBuf.read a).isSome) = true) :
    Loaded s := fun a ha => List.all_eq_true.1 h a (List.mem_range.2 ha)

/-- ENCODE of "Z" (vector A3) with room for 64 bytes. -/
def encodeZ : State := issued 0x01 [0x5A] 64

/-- DECODE of artifact A3. -/
def decodeZ : State := issued 0x02 artifactA3 64

theorem encodeZ_issued : Issued 0x01 encodeZ ∧ Loaded encodeZ := ⟨⟨rfl, rfl, rfl⟩, loaded_of_all (by decide +kernel)⟩
theorem decodeZ_issued : Issued 0x02 decodeZ ∧ Loaded decodeZ := ⟨⟨rfl, rfl, rfl⟩, loaded_of_all (by decide +kernel)⟩

/-- HSER with the tables of A3. -/
def hserZ : State := reading 0x01 0x18 tableA3 [0x5A]

/-- HPAR with this artifact in IN. -/
def parsing (input : List Byte) : State := reading 0x02 0x1C Work.reset input

/-- HeaderParsesBack. -/
theorem test_HeaderParsesBack_hyps :
    hserZ.outLen = 0 ∧ 1 ≤ bitSum hserZ.work ∧ bitSum hserZ.work < 2 ^ 64 ∧ freqSum hserZ.work < 2 ^ 64 ∧
    (∃ t, exec .hser hserZ = .next t ∧ t.phase ≠ 0x00 ∧
      (∀ a, a < t.outLen.toNat → (parsing artifactA3).inBuf.read a = t.outBuf.read a) ∧
      (parsing artifactA3).inLen.toNat = t.outLen.toNat + (bitSum hserZ.work + 7) / 8) ∧
    Loaded (parsing artifactA3) ∧ ∀ b, (parsing artifactA3).work.freqAt b = 0 := by
  refine ⟨rfl, by decide +kernel, by decide +kernel, by decide +kernel, exists_next (by decide +kernel),
    loaded_of_all (by decide +kernel), fun b => ?_⟩
  exact freqAt_replicate Work.reset b

/-- IdleUntilHostActs. -/
theorem test_IdleUntilHostActs_hyps :
    (State.reset.phase = 0x00 ∧ State.reset.sub = none ∧ State.reset.cmd = none ∧ State.reset.hostQ = []) ∧
    (∃ t, step { State.reset with hostQ := [.regWrite 0x00 0x01] } = .next t) ∧
    ∃ t, hostAccess .reset encodeZ = .next t := ⟨⟨rfl, rfl, rfl, rfl⟩, ⟨_, rfl⟩, _, rfl⟩

/-- StepRunsDecodedOperation, its four clauses. -/
theorem test_StepRunsDecodedOperation_hyps :
    (fetch (running 0x01 0x10 Work.reset) = some (.phase, 0x10) ∧ decode [0x10] = .ok (.clr, []) ∧
      Instr.clr.wellFormedAt .phase = true) ∧
    ((running 0x01 0x10 Work.reset).sub = none ∧ (running 0x01 0x10 Work.reset).phase ≠ 0x00) ∧
    (encodeZ.sub = none ∧ encodeZ.phase = 0x00 ∧ encodeZ.cmd = some 0x01) ∧
    { State.reset with sub := some 0x14 }.sub = some 0x14 := by
  refine ⟨⟨rfl, rfl, rfl⟩, ⟨rfl, by decide⟩, ⟨rfl, rfl, rfl⟩, rfl⟩

/-- ReservedCommandRefused, on both sides of the commands and at the top. -/
theorem test_ReservedCommandRefused_hyps :
    (Issued 0x00 (issued 0x00 [] 0) ∧ (0x00 : Byte) ≠ 0x01 ∧ (0x00 : Byte) ≠ 0x02) ∧
    (Issued 0x03 (issued 0x03 [] 0) ∧ (0x03 : Byte) ≠ 0x01 ∧ (0x03 : Byte) ≠ 0x02) ∧
    (Issued 0xFF (issued 0xFF [] 0) ∧ (0xFF : Byte) ≠ 0x01 ∧ (0xFF : Byte) ≠ 0x02) := by
  refine ⟨⟨⟨rfl, rfl, rfl⟩, by decide, by decide⟩, ⟨⟨rfl, rfl, rfl⟩, by decide, by decide⟩,
    ⟨⟨rfl, rfl, rfl⟩, by decide, by decide⟩⟩

/-- RegisterWindowAccesses, OtherWindowAccessesRefused: the last byte value; offsets beside the registers. -/
theorem test_RegisterWindow_hyps :
    (255 : Word).toNat < 256 ∧ 0x00 ∉ [0x04, 0x08, 0x10, 0x18, 0x20] ∧ 0x24 ∉ [0x04, 0x08, 0x10, 0x18, 0x20] ∧
    0x04 ∉ [0x00, 0x08, 0x18, 0x20] ∧ 0x10 ∉ [0x00, 0x08, 0x18, 0x20] := by decide

/-- BufferAccesses: the last byte of the output. -/
theorem test_BufferAccesses_hyps :
    (1 : Word).toNat < { State.reset with outLen := 2, outBuf := buf [7, 9] }.outLen.toNat ∧
    { State.reset with outLen := 2, outBuf := buf [7, 9] }.outBuf.read (1 : Word).toNat = some 9 := by decide

/-- HostWaitsWhileCommandRuns, InputSideNeverWritten, StatusWrittenOnlyAtTheEnd. -/
theorem test_running_step_hyps :
    (running 0x02 0x10 Work.reset).phase ≠ 0x00 ∧ (running 0x02 0x10 Work.reset).sub = none ∧
    (∃ t, step (running 0x02 0x10 Work.reset) = .next t) ∧ Instr.clr ≠ .endCmd ∧
    ∃ t, exec .clr (running 0x02 0x10 Work.reset) = .next t := ⟨by decide, rfl, ⟨_, rfl⟩, by decide, ⟨_, rfl⟩⟩

/-- CommandIssue: without IN_OK; one byte too many; the longest legal input, of the default instance and of the one with
the largest MAX_IN_LEN, 2^56. -/
theorem test_CommandIssue_hyps :
    State.reset.inOk = 0 ∧
    ({ State.reset with inOk := 1, inLen := 0x100000000 }.inOk = 1 ∧
      State.reset.maxInLen.val < { State.reset with inOk := 1, inLen := 0x100000000 }.inLen.toNat) ∧
    ({ State.reset with inOk := 1, inLen := 0xFFFFFFFF }.inOk = 1 ∧
      { State.reset with inOk := 1, inLen := 0xFFFFFFFF }.inLen.toNat ≤ State.reset.maxInLen.val) ∧
    (let s := { State.reset with inOk := 1, inLen := 0x100000000000000, maxInLen := Fin.last _ }
     s.inOk = 1 ∧ s.inLen.toNat ≤ s.maxInLen.val) := by decide

/-- ClrMakesFresh: both commands with no byte and with one byte. -/
theorem test_ClrMakesFresh_hyps :
    ((reading 0x01 0x10 Work.reset [0x5A]).op = 0x01 ∧ 0 < (reading 0x01 0x10 Work.reset [0x5A]).inLen.toNat) ∧
    ((reading 0x01 0x10 Work.reset []).op = 0x01 ∧ (reading 0x01 0x10 Work.reset []).inLen.toNat = 0) ∧
    ((reading 0x02 0x10 Work.reset []).op = 0x02 ∧ (reading 0x02 0x10 Work.reset []).inLen.toNat = 0) ∧
    ((reading 0x02 0x10 Work.reset [0x5A]).op = 0x02 ∧ 0 < (reading 0x02 0x10 Work.reset [0x5A]).inLen.toNat) := by
  decide

/-- FaccCountsByte: the last byte of IN, and one before it; the largest count that can grow. -/
theorem test_FaccCountsByte_hyps :
    (let s := reading 0x01 0x11 (Work.reset.setFreq 0x61 0xFFFFFFFFFFFFFFFE) [0x61]
     s.work.iptr.toNat < s.inLen.toNat ∧ s.inBuf.read s.work.iptr.toNat = some 0x61 ∧
     (s.work.freqAt 0x61).toNat + 1 < 2 ^ 64 ∧ s.work.iptr.toNat + 1 = s.inLen.toNat) ∧
    (let s := reading 0x01 0x11 Work.reset [0x61, 0x62]
     s.work.iptr.toNat < s.inLen.toNat ∧ s.inBuf.read s.work.iptr.toNat = some 0x61 ∧
     (s.work.freqAt 0x61).toNat + 1 < 2 ^ 64 ∧ s.work.iptr.toNat + 1 < s.inLen.toNat) := by decide +kernel

/-- LeafScanAscends: the last Symbol is still found from 255 on; none is found from 256 on. -/
theorem test_LeafScanAscends_hyps :
    (255 ≤ (0xFF : Byte).toNat ∧ (Work.reset.setFreq 0xFF 1).freqAt 0xFF ≠ 0 ∧
      ∀ b' : Byte, 255 ≤ b'.toNat → b'.toNat < (0xFF : Byte).toNat → (Work.reset.setFreq 0xFF 1).freqAt b' = 0) ∧
    ∀ b : Byte, 256 ≤ b.toNat → (Work.reset.setFreq 0xFF 1).freqAt b = 0 := by
  refine ⟨⟨by decide, by simp, fun b' h1 h2 => ?_⟩, fun b h => ?_⟩
  · have : (0xFF : Byte).toNat = 255 := rfl
    omega
  · have := b.isLt
    omega

/-- EndCompletesCommand: both causes of both commands. -/
theorem test_EndCompletesCommand_hyps :
    ((running 0x01 0x1F Work.reset).endArg = 0 ∧ (running 0x01 0x1F Work.reset).op = 0x01) ∧
    ({ running 0x01 0x1F Work.reset with endArg := 2 }.endArg = 2 ∧
      { running 0x01 0x1F Work.reset with endArg := 2 }.op = 0x01) ∧
    ((running 0x02 0x1F Work.reset).endArg = 0 ∧ (running 0x02 0x1F Work.reset).op = 0x02) ∧
    ({ running 0x02 0x1F Work.reset with endArg := 2 }.endArg = 2 ∧
      { running 0x02 0x1F Work.reset with endArg := 2 }.op = 0x02) := by decide

/-- HinsAddsToHeap: the last insertion with room, and the first without. -/
theorem test_HinsAddsToHeap_hyps :
    { Work.reset with hsize := 255 }.hsize.toNat < 256 ∧ 256 ≤ { Work.reset with hsize := 256 }.hsize.toNat := by decide

/-- HextTakesLeastKey, HextOnEmptyHeapRaises, HextIgnoresHeapOrder: two entries of equal weight, in either order. -/
theorem test_Hext_hyps :
    (let w := leaves [(0x61, 1), (0x62, 1)]
     w.heap ≠ [] ∧ w.hsize ≠ 0 ∧ w.heap.Nodup ∧ (∀ j ∈ w.heap, (w.nodeAt j).isSome = true)) ∧
    Work.reset.hsize = 0 ∧
    (let s := running 0x01 0x15 (leaves [(0x61, 1), (0x62, 1)])
     let s' := running 0x01 0x15 ((leaves [(0x61, 1), (0x62, 1)]).setHeap [1, 0] 2)
     (∀ j, j ∈ s.work.heap ↔ j ∈ s'.work.heap) ∧ (∀ j ∈ s.work.heap, s.work.weightAt j = s'.work.weightAt j) ∧
     s.work.heap ≠ [] ∧ s.work.hsize ≠ 0 ∧ s'.work.hsize ≠ 0 ∧ (∃ t, exec .hext s = .next t) ∧
     ∃ t, exec .hext s' = .next t) := by
  refine ⟨by decide +kernel, rfl, by decide +kernel, by decide +kernel, by decide +kernel, by decide +kernel,
    by decide +kernel, ?_, ?_⟩
  · obtain ⟨t, ht, -⟩ := exists_next (p := fun _ => True)
      (by decide +kernel : nextHas (exec .hext (running 0x01 0x15 (leaves [(0x61, 1), (0x62, 1)]))) _ = true)
    exact ⟨t, ht⟩
  · obtain ⟨t, ht, -⟩ := exists_next (p := fun _ => True)
      (by decide +kernel : nextHas (exec .hext (running 0x01 0x15 ((leaves [(0x61, 1), (0x62, 1)]).setHeap [1, 0] 2)))
        _ = true)
    exact ⟨t, ht⟩

/-- LeafCreatesAndInserts, LeafGuards: the last Symbol, node and heap entry; then each guard. -/
theorem test_Leaf_hyps :
    (let w := { Work.reset with scan := 255, nnodes := 510, hsize := 255 }
     w.scan.toNat = (0xFF : Byte).toNat ∧ w.nnodes.toNat < 511 ∧ w.hsize.toNat < 256) ∧
    (let w := { Work.reset with scan := 255, nnodes := 511, hsize := 256 }
     w.scan.toNat < 256 ∧ 511 ≤ w.nnodes.toNat) ∧
    (let w := { Work.reset with scan := 255, nnodes := 510, hsize := 256 }
     w.scan.toNat < 256 ∧ w.nnodes.toNat < 511 ∧ 256 ≤ w.hsize.toNat) := by decide

/-- The heaps of none, one and two leaves are well formed. -/
theorem heapOk_leaves :
    HeapOk (leaves []) ∧ HeapOk (leaves [(0x61, 3)]) ∧ HeapOk (leaves [(0x61, 3), (0x62, 1)]) := by
  unfold HeapOk
  decide +kernel

/-- MergeJoinsTwoLightest at the smallest heap; MergeOnShortHeapRaises and RootTakesLastNode with none and one. -/
theorem test_Merge_Root_hyps :
    (let w := leaves [(0x61, 3), (0x62, 1)]
     HeapOk w ∧ 2 ≤ w.hsize.toNat ∧ w.nnodes.toNat < 511 ∧
     ∀ i ∈ w.heap, ∀ j ∈ w.heap, i ≠ j → w.weightAt i + w.weightAt j < 2 ^ 64) ∧
    (let w := leaves [(0x61, 3)]
     HeapOk w ∧ w.nnodes.toNat ≤ 511 ∧ w.hsize.toNat < 2 ∧ w.hsize.toNat ≤ 1 ∧ w.heap ≠ []) ∧
    (let w := leaves []
     HeapOk w ∧ w.nnodes.toNat ≤ 511 ∧ w.hsize.toNat < 2 ∧ w.hsize.toNat ≤ 1 ∧ w.heap = []) := by
  refine ⟨⟨heapOk_leaves.2.2, by decide +kernel⟩, ⟨heapOk_leaves.2.1, by decide +kernel⟩,
    ⟨heapOk_leaves.1, by decide +kernel⟩⟩

theorem treeT5_nodes :
    treeT5.root = 2 ∧ treeT5.nodeAt 2 = some ⟨.internal, 0, 4, 1, 0⟩ ∧
    treeT5.nodeAt 1 = some ⟨.leaf, 0x62, 1, 0x1FF, 0x1FF⟩ ∧ treeT5.nodeAt 0 = some ⟨.leaf, 0x61, 3, 0x1FF, 0x1FF⟩ := by
  decide +kernel

/-- Where the paths below an Internal root with two leaves lead. -/
theorem follow_two {w : Work} {i l r : NodeIx} {x y z : Node} (hi : w.nodeAt i = some x) (hx : x.tag = .internal)
    (hxl : x.left = l) (hxr : x.right = r) (hl : w.nodeAt l = some y) (hy : y.tag = .leaf)
    (hr : w.nodeAt r = some z) (hz : z.tag = .leaf) (path : BitString) (j : NodeIx)
    (h : follow w i path = some j) : path = [] ∧ j = i ∨ path = [0] ∧ j = l ∨ path = [1] ∧ j = r := by
  cases path with
  | nil => exact .inl ⟨rfl, Option.some.inj (h.symm.trans (follow_nil hi))⟩
  | cons b rest =>
    rw [follow_internal hi hx] at h
    by_cases hb : b = 0
    · rw [Node.child, if_pos hb, hxl] at h
      cases rest with
      | nil => exact .inr (.inl ⟨by rw [hb], Option.some.inj (h.symm.trans (follow_nil hl))⟩)
      | cons c rest => exact absurd (h.symm.trans (follow_leaf hl hy)) (by simp)
    · rw [Node.child, if_neg hb, hxr] at h
      have hb1 : b = 1 := by
        have := b.isLt
        apply BitVec.eq_of_toNat_eq
        have hn : b.toNat ≠ 0 := fun hc => hb (BitVec.eq_of_toNat_eq hc)
        change b.toNat = 1
        omega
      cases rest with
      | nil => exact .inr (.inr ⟨by rw [hb1], Option.some.inj (h.symm.trans (follow_nil hr))⟩)
      | cons c rest => exact absurd (h.symm.trans (follow_leaf hr hz)) (by simp)

/-- Where the paths below a single Leaf lead. -/
theorem follow_one {w : Work} {i : NodeIx} {x : Node} (hi : w.nodeAt i = some x) (hx : x.tag = .leaf)
    (path : BitString) (j : NodeIx) (h : follow w i path = some j) : path = [] ∧ j = i := by
  cases path with
  | nil => exact ⟨rfl, Option.some.inj (h.symm.trans (follow_nil hi))⟩
  | cons b rest => exact absurd (h.symm.trans (follow_leaf hi hx)) (by simp)

/-- An Internal root with two leaves of different Symbols meets CGEN's hypotheses. -/
theorem cgen_two {w : Work} {i l r : NodeIx} {x y z : Node} (hroot : w.root = i) (hi : w.nodeAt i = some x)
    (hx : x.tag = .internal) (hxl : x.left = l) (hxr : x.right = r) (hl : w.nodeAt l = some y) (hy : y.tag = .leaf)
    (hr : w.nodeAt r = some z) (hz : z.tag = .leaf) (hne : y.sym ≠ z.sym) : Visitable w ∧ LeavesDistinct w := by
  constructor
  · intro path j nd hp hj ht
    rw [hroot] at hp
    rcases follow_two hi hx hxl hxr hl hy hr hz path j hp with ⟨rfl, rfl⟩ | ⟨rfl, rfl⟩ | ⟨rfl, rfl⟩
    · rw [hi] at hj
      cases hj
      exact ⟨by decide, by rw [hxl, hl]; rfl, by rw [hxr, hr]; rfl⟩
    · rw [hl] at hj
      cases hj
      rw [hy] at ht
      cases ht
    · rw [hr] at hj
      cases hj
      rw [hz] at ht
      cases ht
  · have key : ∀ p b, leafOn w w.root p = some b → p = [0] ∧ b = y.sym ∨ p = [1] ∧ b = z.sym := by
      intro p b hb
      rw [hroot] at hb
      obtain ⟨j, hj⟩ := follow_of_leafOn hb
      rcases follow_two hi hx hxl hxr hl hy hr hz p j hj with ⟨rfl, rfl⟩ | ⟨rfl, rfl⟩ | ⟨rfl, rfl⟩
      · have := (leafOn_eq hj hi hb).1
        rw [hx] at this
        cases this
      · exact .inl ⟨rfl, (leafOn_eq hj hl hb).2⟩
      · exact .inr ⟨rfl, (leafOn_eq hj hr hb).2⟩
    intro p q b hp hq
    rcases key p b hp with ⟨rfl, h⟩ | ⟨rfl, h⟩ <;> rcases key q b hq with ⟨rfl, h'⟩ | ⟨rfl, h'⟩
    · rfl
    · exact absurd (h.symm.trans h') hne
    · exact absurd (h'.symm.trans h) hne
    · rfl

/-- A single Leaf meets CGEN's hypotheses. -/
theorem cgen_one {w : Work} {i : NodeIx} {x : Node} (hroot : w.root = i) (hi : w.nodeAt i = some x)
    (hx : x.tag = .leaf) : Visitable w ∧ LeavesDistinct w := by
  constructor
  · intro path j nd hp hj ht
    rw [hroot] at hp
    obtain ⟨-, rfl⟩ := follow_one hi hx path j hp
    rw [hi] at hj
    cases hj
    rw [hx] at ht
    cases ht
  · intro p q b hp hq
    rw [hroot] at hp hq
    obtain ⟨j, hj⟩ := follow_of_leafOn hp
    obtain ⟨k, hk⟩ := follow_of_leafOn hq
    rw [(follow_one hi hx p j hj).1, (follow_one hi hx q k hk).1]

/-- CgenAssignsPaths, CodesPrefixFree: the tree T5. -/
theorem test_Cgen_hyps :
    treeT5.nodeAt treeT5.root = some ⟨.internal, 0, 4, 1, 0⟩ ∧ Visitable treeT5 ∧ LeavesDistinct treeT5 ∧
    (∀ b, treeT5.codeAt b = none) ∧ ∃ t, exec .cgen (running 0x01 0x17 treeT5) = .next t ∧ t.phase = 0x18 := by
  obtain ⟨hr, h2, h1, h0⟩ := treeT5_nodes
  obtain ⟨hv, hd⟩ := cgen_two hr h2 rfl rfl rfl h1 rfl h0 rfl (by decide)
  exact ⟨by rw [hr, h2], hv, hd, fun b => codeAt_replicate treeT5 b, exists_next (by decide +kernel)⟩

/-- CgenAssignsPaths: the single-leaf case. -/
theorem test_Cgen_single_hyps :
    treeT2.nodeAt treeT2.root = some ⟨.leaf, 0x5A, 1, 0x1FF, 0x1FF⟩ ∧ Visitable treeT2 ∧ LeavesDistinct treeT2 := by
  have h0 : treeT2.root = 0 ∧ treeT2.nodeAt 0 = some ⟨.leaf, 0x5A, 1, 0x1FF, 0x1FF⟩ := by decide +kernel
  obtain ⟨hv, hd⟩ := cgen_one h0.1 h0.2 rfl
  exact ⟨by rw [h0.1, h0.2], hv, hd⟩

/-- Push1ShiftsAndEmits: the last bit that completes no byte, and the eighth with and without room. -/
theorem test_Push1_hyps :
    (let s := running 0x01 0x1A (writer 0x2A 6 6 8)
     s.work.held.toNat ≤ 7 ∧ s.work.wbits.toNat + 1 < 2 ^ 64 ∧ s.work.held.toNat < 7) ∧
    (let s := running 0x01 0x1A (writer 0x7F 7 7 8)
     s.work.held.toNat ≤ 7 ∧ s.work.wbits.toNat + 1 < 2 ^ 64 ∧ s.work.held.toNat = 7 ∧
     s.outLen.toNat < s.outCap.toNat) ∧
    (let s := { running 0x01 0x1A (writer 0x7F 7 7 8) with outCap := 0 }
     s.work.held.toNat ≤ 7 ∧ s.work.wbits.toNat + 1 < 2 ^ 64 ∧ s.work.held.toNat = 7 ∧
     s.outCap.toNat ≤ s.outLen.toNat) := by decide

/-- A writer that holds seven bits and has completed no byte. -/
theorem writerHolds_seven (s : State) (h1 : s.work.wbits = 7) (h2 : s.work.held = 7) (h3 : s.outLen = 0)
    (h4 : s.work.acc = 0x7F) : WriterHolds s 0 [1, 1, 1, 1, 1, 1, 1] where
  count := by rw [h1]; rfl
  held := by rw [h2]; rfl
  appended := by rw [h3]; rfl
  full := fun k hk => absurd hk (by simp)
  rest := by rw [h4]; rfl

/-- A writer that has taken in nothing. -/
theorem writerHolds_none (s : State) (h1 : s.work.wbits = 0) (h2 : s.work.held = 0) (h3 : s.outLen = 0)
    (h4 : s.work.acc = 0) : WriterHolds s 0 [] where
  count := by rw [h1]; rfl
  held := by rw [h2]; rfl
  appended := by rw [h3]; rfl
  full := fun k hk => absurd hk (by simp)
  rest := by rw [h4]; rfl

/-- A writer of this capacity that holds seven bits, with a byte in IN whose code has two. -/
def pushing (cap : Word) : State :=
  { reading 0x01 0x1A ((writer 0x7F 7 7 9).setCode 0x61 [1, 0]) [0x61] with outCap := cap }

/-- PushcAppendsCode: a code that completes a byte of which seven bits are held, into the last byte of OUT, and with OUT
full inside the code; then a code of one bit, which completes no byte, with OUT full. -/
theorem test_PushcAppendsCode_hyps :
    (∀ cap, WriterHolds (pushing cap) 0 [1, 1, 1, 1, 1, 1, 1]) ∧
    (∀ cap, (pushing cap).work.iptr.toNat < (pushing cap).inLen.toNat ∧
      (pushing cap).inBuf.read (pushing cap).work.iptr.toNat = some 0x61 ∧
      (pushing cap).work.codeAt 0x61 = some [1, 0]) ∧
    [1, 1, 1, 1, 1, 1, (1 : Bit)].length + [1, (0 : Bit)].length < 2 ^ 64 ∧
    0 + (7 + 2) / 8 ≤ (pushing 1).outCap.toNat ∧
    (7 / 8 < (7 + 2) / 8 ∧ (pushing 0).outCap.toNat < 0 + (7 + 2) / 8) ∧
    (let s := { reading 0x01 0x1A ((writer 0 0 0 9).setCode 0x61 [1]) [0x61] with outCap := 0 }
     WriterHolds s 0 [] ∧ s.work.iptr.toNat < s.inLen.toNat ∧ s.inBuf.read s.work.iptr.toNat = some 0x61 ∧
     s.work.codeAt 0x61 = some [1] ∧ (0 + 1) / 8 = 0 / 8) := by
  have h : (pushing 0).work.iptr.toNat < (pushing 0).inLen.toNat ∧
      (pushing 0).inBuf.read (pushing 0).work.iptr.toNat = some 0x61 ∧
      (pushing 0).work.codeAt 0x61 = some [1, 0] := by decide +kernel
  exact ⟨fun _ => writerHolds_seven _ rfl rfl rfl rfl, fun _ => h, by decide, by decide, by decide,
    writerHolds_none _ rfl rfl rfl rfl, by decide +kernel⟩

/-- FinPadsLastByte, FinRaises: seven bits held and one byte of room; no room; nothing held and a wrong count; seven bits
held, one byte of room and a wrong count. -/
theorem test_Fin_hyps :
    (let s := { running 0x01 0x1B (writer 0x7F 7 7 7) with outCap := 1 }
     WriterHolds s 0 [1, 1, 1, 1, 1, 1, 1] ∧ s.work.wbits = s.work.tbits ∧
     0 + ([1, 1, 1, 1, 1, 1, (1 : Bit)].length + 7) / 8 ≤ s.outCap.toNat) ∧
    (let s := { running 0x01 0x1B (writer 0x7F 7 7 7) with outCap := 0 }
     0 < s.work.held.toNat ∧ s.outCap.toNat ≤ s.outLen.toNat) ∧
    (let s := running 0x01 0x1B (writer 0 0 8 9)
     s.work.held.toNat = 0 ∧ s.work.wbits ≠ s.work.tbits) ∧
    (let s := { running 0x01 0x1B (writer 0x7F 7 7 8) with outCap := 1 }
     s.outLen.toNat < s.outCap.toNat ∧ s.work.wbits ≠ s.work.tbits) :=
  ⟨⟨writerHolds_seven _ rfl rfl rfl rfl, by decide⟩, by decide, by decide, by decide⟩

/-- HserAppendsHeader, HserOutFull: a header that just fits, and one byte less. -/
theorem test_Hser_hyps :
    (let s := { hserZ with outCap := 22 }
     1 ≤ bitSum s.work ∧ bitSum s.work < 2 ^ 64 ∧
     s.outLen.toNat + (13 + 9 * distinctSymbols s.work) ≤ s.outCap.toNat ∧ 0 < s.inLen.toNat) ∧
    (let s := { hserZ with outCap := 21 }
     s.outCap.toNat < s.outLen.toNat + (13 + 9 * distinctSymbols s.work)) := by decide +kernel

/-- HparChecksInOrder: vectors E2, E3, E4, E6 and a count of 0 in 12 bytes. -/
theorem test_HparChecks_count_hyps :
    (Loaded (parsing [2, 0, 0]) ∧ (parsing [2, 0, 0]).inLen.toNat < 4) ∧
    (Loaded (parsing [0xFF, 0xFF, 0xFF, 0xFF]) ∧ 4 ≤ (parsing [0xFF, 0xFF, 0xFF, 0xFF]).inLen.toNat ∧
      declaredCount (parsing [0xFF, 0xFF, 0xFF, 0xFF]) < 0) ∧
    (Loaded (parsing [1, 1, 0, 0]) ∧ 4 ≤ (parsing [1, 1, 0, 0]).inLen.toNat ∧
      256 < declaredCount (parsing [1, 1, 0, 0])) ∧
    (Loaded (parsing (artifactA1.take 30)) ∧ 4 ≤ (parsing (artifactA1.take 30)).inLen.toNat ∧
      declaredCount (parsing (artifactA1.take 30)) = (2 : Nat) ∧ (parsing (artifactA1.take 30)).inLen.toNat < 13 + 9 * 2) ∧
    (Loaded (parsing (List.replicate 12 0)) ∧ 4 ≤ (parsing (List.replicate 12 0)).inLen.toNat ∧
      declaredCount (parsing (List.replicate 12 0)) = (0 : Nat) ∧
      (parsing (List.replicate 12 0)).inLen.toNat < 13 + 9 * 0) := by
  refine ⟨⟨loaded_of_all ?_, ?_⟩, ⟨loaded_of_all ?_, ?_⟩, ⟨loaded_of_all ?_, ?_⟩, ⟨loaded_of_all ?_, ?_⟩,
    ⟨loaded_of_all ?_, ?_⟩⟩ <;> decide +kernel

/-- Vector E14: two frequencies of 2^63. -/
def artifactE14 : List Byte :=
  [2, 0, 0, 0, 0x61, 0, 0, 0, 0, 0, 0, 0, 0x80, 0x62, 0, 0, 0, 0, 0, 0, 0, 0x80] ++ [1, 1, 0, 0, 0, 0, 0, 0, 0, 0]

/-- HparChecksInOrder: vectors E14, E9 (both ends) and E10; HparLoadsHeader: vector C5. -/
theorem test_HparChecks_fields_hyps :
    (let s := parsing artifactE14
     declaredCount s = (2 : Nat) ∧ 13 + 9 * 2 ≤ s.inLen.toNat ∧ 2 ^ 64 ≤ declaredSum s 2) ∧
    (let s := parsing (artifactA1.set 22 0)
     declaredCount s = (2 : Nat) ∧ 13 + 9 * 2 ≤ s.inLen.toNat ∧ declaredSum s 2 < 2 ^ 64 ∧
     (inByte s (4 + 9 * 2)).toNat = 0) ∧
    (let s := parsing (artifactA1.set 22 9)
     declaredCount s = (2 : Nat) ∧ 13 + 9 * 2 ≤ s.inLen.toNat ∧ declaredSum s 2 < 2 ^ 64 ∧
     8 < (inByte s (4 + 9 * 2)).toNat) ∧
    (let s := parsing [0, 0, 0, 0, 1, 1, 0, 0, 0, 0, 0, 0, 0]
     declaredCount s = (0 : Nat) ∧ 13 + 9 * 0 ≤ s.inLen.toNat ∧ declaredSum s 0 < 2 ^ 64 ∧
     1 ≤ (inByte s (4 + 9 * 0)).toNat ∧ (inByte s (4 + 9 * 0)).toNat ≤ 8 ∧
     (if s.inLen.toNat - (13 + 9 * 0) = 0 then 0
       else 8 * (s.inLen.toNat - (13 + 9 * 0) - 1) + (inByte s (4 + 9 * 0)).toNat) < inNat s (5 + 9 * 0) 8) ∧
    (let s := parsing artifactA1
     declaredCount s = (2 : Nat) ∧ 13 + 9 * 2 ≤ s.inLen.toNat ∧ declaredSum s 2 < 2 ^ 64 ∧
     1 ≤ (inByte s (4 + 9 * 2)).toNat ∧ (inByte s (4 + 9 * 2)).toNat ≤ 8 ∧
     inNat s (5 + 9 * 2) 8 ≤ (if s.inLen.toNat - (13 + 9 * 2) = 0 then 0
       else 8 * (s.inLen.toNat - (13 + 9 * 2) - 1) + (inByte s (4 + 9 * 2)).toNat)) := by
  refine ⟨?_, ?_, ?_, ?_, ?_⟩ <;> decide +kernel

/-- The artifacts of the last test are loaded. -/
theorem test_HparChecks_loaded :
    Loaded (parsing artifactE14) ∧ Loaded (parsing (artifactA1.set 22 0)) ∧ Loaded (parsing (artifactA1.set 22 9)) ∧
    Loaded (parsing [0, 0, 0, 0, 1, 1, 0, 0, 0, 0, 0, 0, 0]) ∧ Loaded (parsing artifactA1) := by
  refine ⟨loaded_of_all ?_, loaded_of_all ?_, loaded_of_all ?_, loaded_of_all ?_, loaded_of_all ?_⟩ <;> decide +kernel

/-- GetbFetchesBit: the last bit of the last byte. ReadBeyondInputFaults: the first bit and byte behind it. -/
theorem test_Getb_hyps :
    (let s := reading 0x02 0x1D { Work.reset with rbits := 23 } [0x6E, 0x8A, 0xDC]
     s.work.pbase.toNat + s.work.rbits.toNat / 8 < s.inLen.toNat ∧
     s.inBuf.read (s.work.pbase.toNat + s.work.rbits.toNat / 8) = some 0xDC ∧ s.work.rbits.toNat + 1 < 2 ^ 64) ∧
    (let s := reading 0x02 0x1D { Work.reset with rbits := 24, iptr := 3 } [0x6E, 0x8A, 0xDC]
     s.inLen.toNat ≤ s.work.iptr.toNat ∧ s.inLen.toNat ≤ s.work.pbase.toNat + s.work.rbits.toNat / 8) := by
  decide +kernel

/-- WbegBeginsWalk and WfinChecksCursor, every clause. -/
theorem test_Wbeg_Wfin_hyps :
    (treeT2.root ≠ 0x1FF ∧ (Work.reset.setRoot 0x1FF).root = 0x1FF ∧ (Work.reset.setRoot 0x1FF).tbits = 0 ∧
      ((Work.reset.setRoot 0x1FF).setTbits 1).root = 0x1FF ∧ ((Work.reset.setRoot 0x1FF).setTbits 1).tbits ≠ 0) ∧
    (treeT3.setCursor 4).cursor = (treeT3.setCursor 4).root ∧ (treeT3.setCursor 3).cursor ≠ (treeT3.setCursor 3).root := by
  decide +kernel

/-- Walk1MovesCursor: an edge to an Internal node, an edge to a Leaf with and without room. -/
theorem test_Walk1_hyps :
    (let w := (treeT3.setCursor 4).setBit 1 1
     w.nodeAt w.root = some (internalNode 3 2 3) ∧ w.nodeAt w.cursor = some (internalNode 3 2 3) ∧
     (3 : NodeIx) = (if w.bit = 0 then (2 : NodeIx) else 3) ∧ w.nodeAt 3 = some (internalNode 2 0 1) ∧
     (internalNode 2 0 1).tag = .internal) ∧
    (let w := (treeT3.setCursor 4).setBit 0 1
     (2 : NodeIx) = (if w.bit = 0 then (2 : NodeIx) else 3) ∧ w.nodeAt 2 = some (leafNode 0x63 1) ∧
     (leafNode 0x63 1).tag = .leaf ∧ { running 0x02 0x1E w with outCap := 1 }.outLen.toNat < 1 ∧
     { running 0x02 0x1E w with outCap := 0 }.outCap.toNat ≤ { running 0x02 0x1E w with outCap := 0 }.outLen.toNat) ∧
    (treeT2.nodeAt treeT2.root = some (leafNode 0x5A 1) ∧ (leafNode 0x5A 1).tag = .leaf) := by decide +kernel

/-- AbortSequence. -/
theorem test_AbortSequence_hyps : encodeZ.op = encodeZ.op ∧ SameInputSide encodeZ encodeZ :=
  ⟨rfl, fun _ => rfl, rfl, rfl, rfl, rfl, rfl, rfl⟩

/-- StageIsRunningOperation: a command that fails in WFIN. -/
theorem test_StageIsRunningOperation_hyps :
    let s := running 0x02 0x21 (treeT3.setCursor 3)
    s.sub = none ∧ s.phase ≠ 0x00 ∧ ∃ t, step s = .next t ∧ t.phase = 0x00 ∧ statusFail t.status = 1 :=
  ⟨rfl, by decide, exists_next (by decide +kernel)⟩

/-- NonStoringFrame and StoringFrame: next states that are no aborts. -/
theorem test_Frame_hyps :
    (Instr.wfin ∈ [Instr.facc, .leaf, .hins, .hext, .merge, .root, .cgen, .hpar, .getb, .wbeg, .wfin] ∧
      ∃ t, exec .wfin (running 0x02 0x21 (treeT3.setCursor 4)) = .next t ∧ t.phase = 0x1F) ∧
    (Instr.walk1 ∈ [Instr.hser, .push1, .pushc, .fin, .walk1] ∧
      ∃ t, exec .walk1 (running 0x02 0x1E (treeT3.setCursor 3)) = .next t ∧ t.outLen = 1) :=
  ⟨⟨by decide, exists_next (by decide +kernel)⟩, ⟨by decide, exists_next (by decide +kernel)⟩⟩

/-- A state at END after an empty input: END completes it. -/
def ending : State := { running 0x01 0x1F (Work.reset.setRoot 0x1FF) with endArg := 2 }

theorem heapOk_fresh : HeapOk ending.work ∧ ArenaOk ending.work := by
  refine ⟨⟨List.Pairwise.nil, rfl, by decide, fun i hi => nomatch hi⟩, by decide, fun i nd hi => ?_⟩
  exact absurd hi (Nat.not_lt_zero _)

theorem inv_ending : Inv ending where
  inCanonical := rfl
  outCanonical := rfl
  phaseLegal := by decide
  noCall := rfl
  idleIffNoOp := by decide
  opLegal := by decide
  encodeOnly := by decide
  decodeOnly := by decide
  notIssuedTwice := fun _ => rfl
  lengthChecked := fun _ => Nat.zero_le _
  statusReserved := by decide
  causeLegal := by decide
  failedNoOutput := by decide
  emptyNoOutput := by decide
  endCause := fun _ => .inr ⟨rfl, rfl⟩
  nothingAppended := fun _ => rfl
  withinCapacity := fun _ => Nat.zero_le _
  heap := fun _ => heapOk_fresh.1
  arena := fun _ => heapOk_fresh.2
  operands := by
    constructor
    all_goals (intro h; exact absurd h (by decide))

theorem buildBounds_ending : BuildBounds ending := by
  constructor <;> (intro h; exact absurd h (by decide))

/-- StepKeepsInvariant, InvariantStepsNeverStop, StepKeepsBuildBounds, HeapAndArenaGuardsUnreachable. -/
theorem test_Invariant_hyps :
    Inv ending ∧ BuildBounds ending ∧ Loaded ending ∧ ending.phase ≠ 0x00 ∧ ending.phase ≠ 0x1B ∧
    ∃ t, step ending = .next t ∧ t.phase = 0x00 :=
  ⟨inv_ending, buildBounds_ending, fun a ha => absurd ha (Nat.not_lt_zero a), by decide, by decide,
    exists_next (by decide +kernel)⟩

/-- EmptyInputCompletes, UnpreparedCommandFails: both commands. -/
theorem test_Empty_Unprepared_hyps :
    (Issued 0x01 (issued 0x01 [] 0) ∧ (issued 0x01 [] 0).inOk = 1 ∧ (issued 0x01 [] 0).inLen = 0) ∧
    (Issued 0x02 (issued 0x02 [] 0) ∧ (issued 0x02 [] 0).inOk = 1 ∧ (issued 0x02 [] 0).inLen = 0) ∧
    (Issued 0x01 { State.reset with cmd := some 0x01 } ∧ { State.reset with cmd := some 0x01 }.inOk = 0) :=
  ⟨⟨⟨rfl, rfl, rfl⟩, rfl, rfl⟩, ⟨⟨rfl, rfl, rfl⟩, rfl, rfl⟩, ⟨rfl, rfl, rfl⟩, rfl⟩

/-- EveryCommandCompletes and OnlyReachableCauses: ENCODE of "Z" completes with STATUS 0x01000001 (vector A3). -/
theorem test_EveryCommandCompletes_hyps :
    Issued 0x01 encodeZ ∧ Loaded encodeZ ∧ ∃ t, CompletesIn encodeZ t ∧ t.status = 0x01000001 :=
  ⟨encodeZ_issued.1, encodeZ_issued.2, completes_of 19 (by decide +kernel)⟩

/-- EncodeSucceedsWithRoom: one byte of input in 2,349 bytes of room. -/
theorem test_EncodeSucceedsWithRoom_hyps :
    let s := issued 0x01 [0x5A] 2349
    Issued 0x01 s ∧ Loaded s ∧ s.inOk = 1 ∧ s.inLen.toNat ≤ s.maxInLen.val ∧
    13 + 9 * 256 + 32 * s.inLen.toNat ≤ s.outCap.toNat :=
  ⟨⟨rfl, rfl, rfl⟩, loaded_of_all (by decide +kernel), by decide +kernel⟩

/-- EncodeWritesCountsOfInput: ENCODE of "Z". -/
theorem test_EncodeWritesCountsOfInput_hyps :
    Issued 0x01 encodeZ ∧ Loaded encodeZ ∧ 0 < encodeZ.inLen.toNat ∧
    ∃ t, CompletesIn encodeZ t ∧ statusFail t.status = 0 :=
  ⟨encodeZ_issued.1, encodeZ_issued.2, by decide, completes_of 19 (by decide +kernel)⟩

/-- ResultDependsOnArgumentsOnly: two states that differ in their working state. -/
theorem test_ResultDependsOnArgumentsOnly_hyps :
    let s' := { encodeZ with work := treeT5, status := 7 }
    Issued 0x01 encodeZ ∧ Issued 0x01 s' ∧ s'.inLen = encodeZ.inLen ∧ s'.outCap = encodeZ.outCap ∧
    s'.inOk = encodeZ.inOk ∧ s'.maxInLen = encodeZ.maxInLen ∧ (∀ a, a < encodeZ.inLen.toNat → s'.inBuf.read a = encodeZ.inBuf.read a) ∧
    ∃ t, CompletesIn encodeZ t ∧ t.status = 0x01000001 :=
  ⟨⟨rfl, rfl, rfl⟩, ⟨rfl, rfl, rfl⟩, rfl, rfl, rfl, rfl, fun _ _ => rfl, completes_of 19 (by decide +kernel)⟩

/-- DecodeOfEncodeIsInput: "Z" and artifact A3, the copy of its output. -/
theorem test_DecodeOfEncodeIsInput_hyps :
    Issued 0x01 encodeZ ∧ Loaded encodeZ ∧ (∃ t, CompletesIn encodeZ t ∧ statusFail t.status = 0 ∧
      decodeZ.inLen = t.outLen ∧ ∀ a, a < t.outLen.toNat → decodeZ.inBuf.read a = t.outBuf.read a) ∧
    Issued 0x02 decodeZ ∧ decodeZ.inOk = 1 ∧ decodeZ.inLen.toNat ≤ decodeZ.maxInLen.val ∧
    encodeZ.inLen.toNat ≤ decodeZ.outCap.toNat :=
  ⟨encodeZ_issued.1, encodeZ_issued.2, completes_of 19 (by decide +kernel), decodeZ_issued.1, rfl, by decide +kernel⟩

end Sys2Proof.Tests
end

namespace Sys2Proof.Proofs

open Sys2Proof.Machine Sys2Proof.Safety Sys2Proof.Reference

/-! ### Reset -/

/-- Settles O4: every part is a field of the reset state, and the idle step with no host move changes nothing. -/
theorem resetIsIdle : Obligations.ResetIsIdle := by
  unfold Obligations.ResetIsIdle
  exact ⟨rfl, rfl, rfl, rfl, rfl, rfl, rfl, rfl, rfl⟩

/-! ### Runs of a command -/

/-- Steps lead from `s` to `t`, with a command running all the way. -/
inductive Reaches : State → State → Prop
  | refl (s : State) : Reaches s s
  | head {s t u : State} (h : step s = .next t) (busy : t.phase ≠ 0x00) (rest : Reaches t u) : Reaches s u

theorem Reaches.single {s t : State} (h : step s = .next t) (busy : t.phase ≠ 0x00) : Reaches s t :=
  .head h busy (.refl t)

theorem Reaches.trans {s t u : State} (h : Reaches s t) (h' : Reaches t u) : Reaches s u := by
  induction h with
  | refl => exact h'
  | head hs hb _ ih => exact .head hs hb (ih h')

/-- A run that comes to a step after which HUFFCORE is idle completes there. -/
theorem Reaches.completesIn {s t v : State} (h : Reaches s t) (hv : step t = .next v) (idle : v.phase = 0x00) :
    CompletesIn s v := by
  induction h with
  | refl s => exact ⟨1, by simp [runToIdle, hv, idle], idle, Nat.one_pos⟩
  | head hs hb _ ih =>
    obtain ⟨fuel, hf, -, -⟩ := ih hv
    exact ⟨fuel + 1, by simp only [runToIdle, hs, if_neg hb, hf], idle, Nat.succ_pos _⟩

/-- What completes a busy run completes the run that leads to it. -/
theorem Reaches.completesIn_trans {s t v : State} (h : Reaches s t) (h' : CompletesIn t v) : CompletesIn s v := by
  induction h with
  | refl => exact h'
  | head hs hb _ ih =>
    obtain ⟨fuel, hf, idle, -⟩ := ih h'
    exact ⟨fuel + 1, by simp only [runToIdle, hs, if_neg hb, hf], idle, Nat.succ_pos _⟩

/-- Two amounts of fuel that both reach an idle state reach the same one. -/
theorem runToIdle_unique {n m : Nat} {s t t' : State} (hn : runToIdle n s = .next t) (hm : runToIdle m s = .next t')
    (h : t.phase = 0x00) (h' : t'.phase = 0x00) (hn0 : 0 < n) (hm0 : 0 < m) : t = t' := by
  induction n generalizing m s with
  | zero => exact absurd hn0 (Nat.lt_irrefl 0)
  | succ n ih =>
    obtain ⟨m, rfl⟩ := Nat.exists_eq_succ_of_ne_zero hm0.ne'
    unfold runToIdle at hn hm
    cases hs : step s with
    | fault f => simp [hs] at hn
    | refused r => simp [hs] at hn
    | next u =>
      simp only [hs] at hn hm
      by_cases hu : u.phase = 0x00
      · rw [if_pos hu] at hn hm
        cases hn; cases hm; rfl
      · rw [if_neg hu] at hn hm
        have pos : ∀ {k v}, runToIdle k u = .next v → v.phase = 0x00 → 0 < k := by
          intro k v hk hv
          cases k with
          | zero => cases hk; exact absurd hv hu
          | succ k => exact Nat.succ_pos k
        exact ih hn hm (pos hn h) (pos hm h')

/-- A command completes in one state only. -/
theorem completesIn_unique {s t t' : State} (h : CompletesIn s t) (h' : CompletesIn s t') : t = t' := by
  obtain ⟨n, hn, hi, hn0⟩ := h
  obtain ⟨m, hm, hi', hm0⟩ := h'
  exact runToIdle_unique hn hm hi hi' hn0 hm0

/-- The command of `s` completes with FAIL. -/
def Fails (s : State) : Prop := ∃ t, CompletesIn s t ∧ statusFail t.status = 1

theorem Reaches.fails {s t : State} (h : Reaches s t) : Fails t → Fails s :=
  fun ⟨v, hv, hf⟩ => ⟨v, h.completesIn_trans hv, hf⟩

/-- While a command runs, a step runs the micro-operation in PHASE. -/
theorem step_of_phase {s : State} {i : Instr} (hsub : s.sub = none) (hp : s.phase = opcode i)
    (hi : i.opClass = .micro) : step s = exec i s := by
  have h0 : opcode i ≠ 0#8 := by cases i <;> decide
  have hf : fetch s = some (.phase, opcode i) := by simp [fetch, hsub, hp, h0]
  have hd : decode [opcode i] = .ok (i, []) := decode_encode i []
  simp [step, hf, hd, Instr.wellFormedAt, hi, Port.accepts, consume]

/-- With HUFFCORE idle, a step issues the command in CMD (R100). -/
theorem step_of_issued {s : State} {i : Instr} (h : Issued (opcode i) s) (hi : i.opClass = .host) :
    step s = issue (opcode i) (consume .cmd s) := by
  have hf : fetch s = some (.cmd, opcode i) := by simp [fetch, h.noCall, h.idle, h.written]
  have hd : decode [opcode i] = .ok (i, []) := decode_encode i []
  have hx : step s = exec i (consume .cmd s) := by simp [step, hf, hd, Instr.wellFormedAt, hi, Port.accepts]
  rw [hx]
  cases i
  case encode | decode => rfl
  all_goals cases hi

/-- A micro-operation that raises ends its command with FAIL. -/
theorem fails_of_raise {s u : State} {i : Instr} {k : State → State} {x : Byte} {r : Res Unit} {e : Raise}
    (hsub : s.sub = none) (hp : s.phase = opcode i) (hi : i.opClass = .micro) (hx : exec i s = settle x r k)
    (hr : r = .raise e u) : Fails s := by
  refine ⟨abort e x u.disownOut, (Reaches.refl s).completesIn (v := abort e x u.disownOut) ?_ rfl, ?_⟩
  · rw [step_of_phase hsub hp hi, hx, hr, settle_raise]
  · rw [abort_status, statusFail_abort]

/-- A micro-operation that completes goes where the sequencer sends it. -/
theorem reaches_of_ok {s u : State} {i : Instr} {k : State → State} {x : Byte} {r : Res Unit}
    (hsub : s.sub = none) (hp : s.phase = opcode i) (hi : i.opClass = .micro) (hx : exec i s = settle x r k)
    (hr : r = .ok () u) (busy : (k u).phase ≠ 0x00) : Reaches s (k u) :=
  .single (by rw [step_of_phase hsub hp hi, hx, hr, settle_ok]) busy

/-- END completes the command with its operand as the cause (R106). -/
theorem completesIn_end {s : State} {c : BitVec 4} (hsub : s.sub = none) :
    CompletesIn (gotoEnd c s) (complete c (gotoEnd c s)) :=
  (Reaches.refl _).completesIn (step_of_phase (i := .endCmd) hsub rfl rfl) rfl

/-! ### Huffman trees -/

/-- A Huffman tree as data: what a node of the arena stands for (R31). -/
inductive HTree where
  | leaf (b : Byte) (weight : Nat)
  | node (l r : HTree)

namespace HTree

def weight : HTree → Nat
  | leaf _ n => n
  | node l r => l.weight + r.weight

/-- The Symbols of the Leaves, left to right. -/
def syms : HTree → List Byte
  | leaf b _ => [b]
  | node l r => l.syms ++ r.syms

def height : HTree → Nat
  | leaf _ _ => 0
  | node l r => max l.height r.height + 1

/-- The path to the Leaf of a Symbol; where there are several, the one CGEN visits last. -/
def path (b : Byte) : HTree → Option BitString
  | leaf c _ => if b = c then some [] else none
  | node l r =>
    match r.path b with
    | some p => some (1 :: p)
    | none => (l.path b).map (0 :: ·)

/-- The code of a Symbol: its path, or the one-bit code of a single Leaf (R157, R158). -/
def code (b : Byte) : HTree → Option BitString
  | leaf c _ => if b = c then some Config.singleCode else none
  | node l r => (node l r).path b

theorem height_lt_syms (T : HTree) : T.height < T.syms.length := by
  induction T with
  | leaf b n => simp [height, syms]
  | node l r ihl ihr =>
    simp only [height, syms, List.length_append]
    omega

theorem path_isSome {T : HTree} {b : Byte} (h : b ∈ T.syms) : ∃ p, T.path b = some p := by
  induction T with
  | leaf c n => exact ⟨[], by simpa [path, syms] using h⟩
  | node l r ihl ihr =>
    unfold path
    cases hr : r.path b with
    | some p => exact ⟨_, rfl⟩
    | none =>
      rcases List.mem_append.1 h with hb | hb
      · obtain ⟨p, hp⟩ := ihl hb
        exact ⟨0 :: p, by simp [hp]⟩
      · obtain ⟨p, hp⟩ := ihr hb
        simp [hp] at hr

theorem path_length_le {T : HTree} {b : Byte} {p : BitString} (h : T.path b = some p) : p.length ≤ T.height := by
  induction T generalizing p with
  | leaf c n =>
    simp only [path, Option.ite_none_right_eq_some, Option.some.injEq] at h
    simp [← h.2]
  | node l r ihl ihr =>
    unfold path at h
    cases hr : r.path b with
    | some q =>
      simp only [hr, Option.some.injEq] at h
      have := ihr hr
      simp only [← h, List.length_cons, height]
      omega
    | none =>
      simp only [hr, Option.map_eq_some_iff] at h
      obtain ⟨q, hq, rfl⟩ := h
      have := ihl hq
      simp only [List.length_cons, height]
      omega

/-- Below an Internal root no path is empty. -/
theorem path_node_length_pos {l r : HTree} {b : Byte} {p : BitString} (h : (node l r).path b = some p) :
    0 < p.length := by
  unfold path at h
  cases hr : r.path b with
  | some q =>
    simp only [hr, Option.some.injEq] at h
    simp [← h]
  | none =>
    simp only [hr, Option.map_eq_some_iff] at h
    obtain ⟨q, -, rfl⟩ := h
    simp

theorem code_isSome {T : HTree} {b : Byte} (h : b ∈ T.syms) : ∃ p, T.code b = some p := by
  cases T with
  | leaf c n => exact ⟨_, if_pos (by simpa [syms] using h)⟩
  | node l r => exact path_isSome h

/-- A code of a tree with at most 256 Leaves has 1 to 255 bits (R9, R159). -/
theorem code_length {T : HTree} {b : Byte} {p : BitString} (h : T.code b = some p) (hT : T.syms.length ≤ 256) :
    1 ≤ p.length ∧ p.length ≤ 255 := by
  cases T with
  | leaf c n =>
    simp only [code, Option.ite_none_right_eq_some, Option.some.injEq] at h
    simp [← h.2, Config.singleCode]
  | node l r =>
    have := path_length_le h
    have := height_lt_syms (node l r)
    exact ⟨path_node_length_pos h, by omega⟩

end HTree

/-! ### Trees in the node arena -/

/-- Node `i` of the arena stands for the tree `T`, all of it below NNODES. -/
def Holds (w : Work) (i : NodeIx) : HTree → Prop
  | .leaf b n =>
    i.toNat < w.nnodes.toNat ∧
    ∃ nd, w.nodeAt i = some nd ∧ nd.tag = .leaf ∧ nd.sym = b ∧ nd.weight.toNat = n
  | .node l r =>
    i.toNat < w.nnodes.toNat ∧
    ∃ nd, w.nodeAt i = some nd ∧ nd.tag = .internal ∧ nd.weight.toNat = l.weight + r.weight ∧
      Holds w nd.left l ∧ Holds w nd.right r

theorem Holds.lt {w : Work} {i : NodeIx} {T : HTree} (h : Holds w i T) : i.toNat < w.nnodes.toNat := by
  cases T <;> exact h.1

theorem Holds.weightAt {w : Work} {i : NodeIx} {T : HTree} (h : Holds w i T) : w.weightAt i = T.weight := by
  cases T with
  | leaf b n =>
    obtain ⟨-, nd, hnd, -, -, hw⟩ := h
    simp [Work.weightAt, hnd, hw, HTree.weight]
  | node l r =>
    obtain ⟨-, nd, hnd, -, hw, -, -⟩ := h
    simp [Work.weightAt, hnd, hw, HTree.weight]

/-- A tree stays where it is as long as the nodes in use do. -/
theorem Holds.mono {w w' : Work} {i : NodeIx} {T : HTree} (h : Holds w i T)
    (hn : w.nnodes.toNat ≤ w'.nnodes.toNat)
    (hw : ∀ j : NodeIx, j.toNat < w.nnodes.toNat → w'.nodeAt j = w.nodeAt j) : Holds w' i T := by
  induction T generalizing i with
  | leaf b n =>
    obtain ⟨hi, nd, hnd, rest⟩ := h
    exact ⟨hi.trans_le hn, nd, (hw i hi).trans hnd, rest⟩
  | node l r ihl ihr =>
    obtain ⟨hi, nd, hnd, ht, hwt, hl, hr⟩ := h
    exact ⟨hi.trans_le hn, nd, (hw i hi).trans hnd, ht, hwt, ihl hl, ihr hr⟩

/-- A tree depends on the arena alone. -/
theorem Holds.congr {w w' : Work} {i : NodeIx} {T : HTree} (h : Holds w i T) (hn : w'.nnodes = w.nnodes)
    (hw : w'.node = w.node) : Holds w' i T :=
  h.mono (by rw [hn]) fun j _ => by simp only [Work.nodeAt, hw]

end Sys2Proof.Proofs

namespace Sys2Proof.Proofs

open Sys2Proof.Machine Sys2Proof.Safety Sys2Proof.Reference

/-! ### Forests: what HEAP holds while BUILD runs -/

/-- The trees of a forest with their nodes, in the order of HEAP. -/
abbrev Forest := List (NodeIx × HTree)

/-- The key order of R121 on the members of a forest. -/
def keyBefore (x y : NodeIx × HTree) : Bool :=
  decide (x.2.weight < y.2.weight) || (decide (x.2.weight = y.2.weight) && decide (x.1.toNat < y.1.toNat))

/-- The tree HEXT takes. -/
def leastTree : Forest → Option (NodeIx × HTree)
  | [] => none
  | x :: rest =>
    match leastTree rest with
    | none => some x
    | some y => if keyBefore y x then some y else some x

/-- The forest without the tree at node `i`. -/
def Forest.without (F : Forest) (i : NodeIx) : Forest := F.eraseP fun y => y.1 == i

/-- One MERGE with `n` nodes in use (R141). -/
def mergeForest (n : Nat) (F : Forest) : Forest :=
  match leastTree F with
  | none => F
  | some x =>
    match leastTree (F.without x.1) with
    | none => F
    | some y => ((F.without x.1).without y.1) ++ [(BitVec.ofNat 9 n, .node x.2 y.2)]

/-- `k` MERGEs, the first with `n` nodes in use (R140). -/
def mergeForests : Nat → Nat → Forest → Forest
  | 0, _, F => F
  | k + 1, n, F => mergeForests k (n + 1) (mergeForest n F)

/-- The Leaves of some Symbols, numbered from 0 (R136, R138). -/
def leafForest (freq : Byte → Nat) (bs : List Byte) : Forest :=
  bs.zipIdx.map fun x => (BitVec.ofNat 9 x.2, .leaf x.1 (freq x.1))

/-- The Symbols with nonzero frequency, ascending. -/
def usedSyms (freq : Byte → Nat) : List Byte := symbols.filter fun b => freq b != 0

/-- What BUILD makes of a frequency table. -/
def huffForest (freq : Byte → Nat) : Forest :=
  mergeForests ((usedSyms freq).length - 1) (usedSyms freq).length (leafForest freq (usedSyms freq))

/-- The Symbols of all trees of a forest. -/
def Forest.syms (F : Forest) : List Byte := F.flatMap fun x => x.2.syms

/-- The weight of a whole forest. -/
def Forest.total (F : Forest) : Nat := (F.map fun x => x.2.weight).sum

theorem leastTree_isSome {F : Forest} (h : F ≠ []) : ∃ x, leastTree F = some x := by
  cases F with
  | nil => exact absurd rfl h
  | cons x rest =>
    unfold leastTree
    split
    · exact ⟨_, rfl⟩
    · split <;> exact ⟨_, rfl⟩

theorem leastTree_mem {F : Forest} {x : NodeIx × HTree} (h : leastTree F = some x) : x ∈ F := by
  induction F generalizing x with
  | nil => cases h
  | cons y rest ih =>
    unfold leastTree at h
    split at h
    · cases h; exact List.mem_cons_self
    · next z hz =>
      split at h
      · cases h; exact List.mem_cons_of_mem _ (ih hz)
      · cases h; exact List.mem_cons_self

/-- Taking the tree at a node out of a forest whose nodes are distinct takes out that tree. -/
theorem Forest.perm_without {F : Forest} {x : NodeIx × HTree} (hx : x ∈ F) (hF : (F.map Prod.fst).Nodup) :
    F.Perm (x :: F.without x.1) := by
  induction F with
  | nil => cases hx
  | cons y rest ih =>
    rw [List.map_cons, List.nodup_cons] at hF
    unfold Forest.without
    by_cases hy : y.1 = x.1
    · rcases List.mem_cons.1 hx with rfl | hx
      · simp
      · exact absurd (hy ▸ List.mem_map_of_mem hx) hF.1
    · rw [List.eraseP_cons_of_neg (by simpa using hy)]
      have hx' : x ∈ rest := (List.mem_cons.1 hx).resolve_left fun h => hy (h ▸ rfl)
      exact ((ih hx' hF.2).cons y).trans (.swap x y _)

theorem Forest.map_fst_without (F : Forest) (i : NodeIx) :
    (F.without i).map Prod.fst = (F.map Prod.fst).erase i := by
  rw [Forest.without, List.erase_eq_eraseP, List.eraseP_map]
  congr 1
  refine congrArg (fun p => List.eraseP p F) (funext fun y => ?_)
  simp [beq_eq_decide, eq_comm]

/-- The trees a MERGE takes, and what it leaves. -/
theorem mergeForest_spec {n : Nat} {F : Forest} (h2 : 2 ≤ F.length) (hF : (F.map Prod.fst).Nodup) :
    ∃ x y, leastTree F = some x ∧ leastTree (F.without x.1) = some y ∧
      F.Perm (x :: y :: (F.without x.1).without y.1) ∧
      mergeForest n F = (F.without x.1).without y.1 ++ [(BitVec.ofNat 9 n, .node x.2 y.2)] := by
  obtain ⟨x, hx⟩ := leastTree_isSome (F := F) (by rintro rfl; simp at h2)
  have hp := Forest.perm_without (leastTree_mem hx) hF
  have hl := hp.length_eq
  rw [List.length_cons] at hl
  obtain ⟨y, hy⟩ := leastTree_isSome (F := F.without x.1) (by intro h; simp [h] at hl; omega)
  have hF' : ((F.without x.1).map Prod.fst).Nodup := by
    rw [Forest.map_fst_without]
    exact hF.sublist List.erase_sublist
  exact ⟨x, y, hx, hy, hp.trans ((Forest.perm_without (leastTree_mem hy) hF').cons x),
    by simp [mergeForest, hx, hy]⟩

theorem mergeForest_length {n : Nat} {F : Forest} (h2 : 2 ≤ F.length) (hF : (F.map Prod.fst).Nodup) :
    (mergeForest n F).length + 1 = F.length := by
  obtain ⟨x, y, -, -, hp, hm⟩ := mergeForest_spec (n := n) h2 hF
  rw [hm, hp.length_eq]
  simp

theorem mergeForest_total {n : Nat} {F : Forest} (h2 : 2 ≤ F.length) (hF : (F.map Prod.fst).Nodup) :
    (mergeForest n F).total = F.total := by
  obtain ⟨x, y, -, -, hp, hm⟩ := mergeForest_spec (n := n) h2 hF
  have hs := (hp.map fun z => z.2.weight).sum_eq
  simp only [Forest.total, hm, hs, List.map_append, List.map_cons, List.map_nil, List.sum_append, List.sum_cons,
    List.sum_nil, HTree.weight]
  omega

theorem mergeForest_syms {n : Nat} {F : Forest} (h2 : 2 ≤ F.length) (hF : (F.map Prod.fst).Nodup) :
    (mergeForest n F).syms.Perm F.syms := by
  obtain ⟨x, y, -, -, hp, hm⟩ := mergeForest_spec (n := n) h2 hF
  refine List.Perm.trans ?_ (hp.flatMap_right fun z => z.2.syms).symm
  simp only [Forest.syms, hm, List.flatMap_append, List.flatMap_cons, List.flatMap_nil, List.append_nil, HTree.syms]
  exact List.perm_append_comm.trans (.of_eq (List.append_assoc ..))

/-- The members of a forest are numbered below `n`, no two alike. -/
def Numbered (n : Nat) (F : Forest) : Prop := (F.map Prod.fst).Nodup ∧ ∀ x ∈ F, x.1.toNat < n

/-- A tree at the next number. -/
theorem Numbered.concat {n : Nat} {F : Forest} (h : Numbered n F) (hn : n < 512) (T : HTree) :
    Numbered (n + 1) (F ++ [(BitVec.ofNat 9 n, T)]) := by
  have hx : (BitVec.ofNat 9 n).toNat = n := by
    rw [BitVec.toNat_ofNat]
    omega
  refine ⟨?_, fun x hx' => ?_⟩
  · rw [List.map_append, List.nodup_append]
    refine ⟨h.1, by simp, fun i hi j hj hij => ?_⟩
    obtain ⟨x, hx', rfl⟩ := List.mem_map.1 hi
    have := h.2 x hx'
    rw [hij, List.mem_singleton.1 hj] at this
    exact Nat.lt_irrefl n (hx.symm.trans_lt this)
  · rcases List.mem_append.1 hx' with hx' | hx'
    · exact (h.2 x hx').trans (Nat.lt_succ_self n)
    · rw [List.mem_singleton.1 hx', hx]
      exact Nat.lt_succ_self n

theorem Numbered.without {n : Nat} {F : Forest} (h : Numbered n F) (i : NodeIx) : Numbered n (F.without i) :=
  ⟨Forest.map_fst_without F i ▸ h.1.sublist List.erase_sublist, fun x hx => h.2 x (List.mem_of_mem_eraseP hx)⟩

theorem mergeForest_numbered {n : Nat} {F : Forest} (h : Numbered n F) (hn : n < 512) (h2 : 2 ≤ F.length) :
    Numbered (n + 1) (mergeForest n F) := by
  obtain ⟨x, y, -, -, -, hm⟩ := mergeForest_spec (n := n) h2 h.1
  rw [hm]
  exact ((h.without x.1).without y.1).concat hn _

/-- `k` MERGEs leave one tree of a forest of `k + 1`, with all its Symbols and its weight. -/
theorem mergeForests_spec {k n : Nat} {F : Forest} (hl : F.length = k + 1) (h : Numbered n F) (hn : n + k ≤ 512) :
    ∃ x, mergeForests k n F = [x] ∧ x.2.syms.Perm F.syms ∧ x.2.weight = F.total := by
  induction k generalizing n F with
  | zero =>
    obtain ⟨x, rfl⟩ := List.length_eq_one_iff.1 hl
    exact ⟨x, rfl, by simp [Forest.syms], by simp [Forest.total]⟩
  | succ k ih =>
    have h2 : 2 ≤ F.length := by omega
    have hlen := mergeForest_length (n := n) h2 h.1
    obtain ⟨x, hx, hs, hw⟩ := ih (by omega) (mergeForest_numbered h (by omega) h2) (by omega)
    exact ⟨x, hx, hs.trans (mergeForest_syms h2 h.1), hw.trans (mergeForest_total h2 h.1)⟩

/-- A forest grows by a Leaf. -/
theorem leafForest_concat (freq : Byte → Nat) (bs : List Byte) (b : Byte) :
    leafForest freq (bs ++ [b]) = leafForest freq bs ++ [(BitVec.ofNat 9 bs.length, .leaf b (freq b))] := by
  simp [leafForest, List.zipIdx_append]

theorem leafForest_length (freq : Byte → Nat) (bs : List Byte) : (leafForest freq bs).length = bs.length := by
  simp [leafForest]

theorem leafForest_syms (freq : Byte → Nat) (bs : List Byte) : (leafForest freq bs).syms = bs := by
  induction bs using List.reverseRecOn with
  | nil => rfl
  | append_singleton bs b ih =>
    rw [leafForest_concat]
    simp only [Forest.syms, List.flatMap_append] at ih ⊢
    rw [ih]
    rfl

theorem leafForest_total (freq : Byte → Nat) (bs : List Byte) : (leafForest freq bs).total = (bs.map freq).sum := by
  induction bs using List.reverseRecOn with
  | nil => rfl
  | append_singleton bs b ih =>
    rw [leafForest_concat]
    simp only [Forest.total, List.map_append, List.sum_append] at ih ⊢
    rw [ih]
    rfl

theorem symbols_length : symbols.length = 256 := by simp [symbols]

theorem usedSyms_length_le (freq : Byte → Nat) : (usedSyms freq).length ≤ 256 :=
  symbols_length ▸ List.length_filter_le _ _

theorem mem_usedSyms {freq : Byte → Nat} {b : Byte} : b ∈ usedSyms freq ↔ freq b ≠ 0 := by simp [usedSyms]

theorem usedSyms_sum (freq : Byte → Nat) : ((usedSyms freq).map freq).sum = (symbols.map freq).sum := by
  unfold usedSyms
  induction symbols with
  | nil => rfl
  | cons b l ih =>
    by_cases h : freq b = 0
    · simpa [h] using ih
    · simpa [h] using ih

theorem leafForest_numbered (freq : Byte → Nat) {bs : List Byte} (h : bs.length ≤ 256) :
    Numbered bs.length (leafForest freq bs) := by
  induction bs using List.reverseRecOn with
  | nil => exact ⟨List.nodup_nil, fun x hx => nomatch hx⟩
  | append_singleton bs b ih =>
    rw [List.length_append, List.length_singleton] at h
    rw [leafForest_concat, List.length_append, List.length_singleton]
    exact (ih (by omega)).concat (by omega) _

/-- BUILD makes one tree of a nonzero frequency table; its Symbols are the used ones and its weight is their sum
(R140, R147). -/
theorem huffForest_spec {freq : Byte → Nat} (h : usedSyms freq ≠ []) :
    ∃ x, huffForest freq = [x] ∧ x.2.syms.Perm (usedSyms freq) ∧ x.2.weight = (symbols.map freq).sum := by
  have hpos := List.length_pos_iff.2 h
  have hle := usedSyms_length_le freq
  obtain ⟨x, hx, hs, hw⟩ := mergeForests_spec (k := (usedSyms freq).length - 1)
    (by rw [leafForest_length]; omega) (leafForest_numbered freq hle) (by omega)
  rw [leafForest_syms] at hs
  rw [leafForest_total, usedSyms_sum] at hw
  exact ⟨x, hx, hs, hw⟩

/-! ### Forests in the working state -/

/-- HEAP and the arena hold exactly this forest. -/
structure Planted (w : Work) (F : Forest) : Prop where
  heap : w.heap = F.map Prod.fst
  hsize : w.hsize.toNat = F.length
  rising : (w.heap.map BitVec.toNat).Pairwise (· < ·)
  holds : ∀ x ∈ F, Holds w x.1 x.2

theorem Planted.nodup {w : Work} {F : Forest} (h : Planted w F) : (F.map Prod.fst).Nodup :=
  h.heap ▸ List.Nodup.of_map _ (h.rising.imp Nat.ne_of_lt)

theorem Planted.nil_notMem {w : Work} {F : Forest} (h : Planted w F) (hn : w.nnodes.toNat ≤ 511) :
    Config.nil ∉ w.heap := by
  rw [h.heap, List.mem_map]
  rintro ⟨x, hx, hi⟩
  have := (h.holds x hx).lt
  rw [hi] at this
  exact absurd this (by change ¬ 511 < _; omega)

theorem Planted.hsize_ne_zero {w : Work} {F : Forest} (h : Planted w F) (hF : F ≠ []) : w.hsize ≠ 0 := by
  intro hc
  have hs := h.hsize
  rw [hc] at hs
  exact hF (List.length_eq_zero_iff.1 hs.symm)

/-- HEXT takes the same tree from HEAP as from the forest. -/
theorem leastOf_eq_leastTree {w : Work} {F : Forest} (h : ∀ x ∈ F, w.weightAt x.1 = x.2.weight) :
    leastOf w (F.map Prod.fst) = (leastTree F).map Prod.fst := by
  induction F with
  | nil => rfl
  | cons x rest ih =>
    have ih := ih fun y hy => h y (List.mem_cons_of_mem _ hy)
    rw [List.map_cons, leastOf, leastTree, ih]
    cases hl : leastTree rest with
    | none => rfl
    | some y =>
      have hk : w.keyLt y.1 x.1 = keyBefore y x := by
        simp only [Work.keyLt, keyBefore, h x List.mem_cons_self, h y (List.mem_cons_of_mem _ (leastTree_mem hl))]
      simp only [Option.map_some, hk]
      split <;> rfl

/-- HEXT on a planted forest (R123). -/
theorem heapExtract_planted {s : State} {F : Forest} {x : NodeIx × HTree} (h : Planted s.work F)
    (hn : s.work.nnodes.toNat ≤ 511) (hx : leastTree F = some x) :
    heapExtract s = .ok x.1 (s.setWork (s.work.setHeap (s.work.heap.erase x.1) (s.work.hsize - 1))) ∧
      Planted (s.work.setHeap (s.work.heap.erase x.1) (s.work.hsize - 1)) (F.without x.1) := by
  have hm := leastTree_mem hx
  have hl := (Forest.perm_without hm h.nodup).length_eq
  rw [List.length_cons] at hl
  have hs := h.hsize
  have h0 : s.work.hsize ≠ 0 := h.hsize_ne_zero (List.ne_nil_of_mem hm)
  have hne : s.work.heap ≠ [] := by
    rw [h.heap, Ne, List.map_eq_nil_iff]
    exact List.ne_nil_of_mem hm
  obtain ⟨i, hi, he⟩ := heapExtract_some h0 hne (h.nil_notMem hn)
  rw [h.heap, leastOf_eq_leastTree fun y hy => (h.holds y hy).weightAt, hx] at hi
  cases hi
  refine ⟨he, ?_, ?_, h.rising.sublist (List.erase_sublist.map _), fun y hy => ?_⟩
  · rw [Work.setHeap_heap, h.heap, Forest.map_fst_without]
  · rw [Work.setHeap_hsize]
    bv_omega
  · exact (h.holds y (List.mem_of_mem_eraseP hy)).congr rfl rfl

/-- Creating a node whose tree the arena then holds adds that tree to the forest (R136, R141). -/
theorem addNode_planted {s : State} {F : Forest} {nd : Node} {T : HTree} (h : Planted s.work F)
    (hn : s.work.nnodes.toNat < 511) (hh : F.length < 256)
    (hT : ∀ w : Work, w.nnodes.toNat = s.work.nnodes.toNat + 1 → w.nodeAt (nextIx s) = some nd →
      (∀ j : NodeIx, j.toNat < s.work.nnodes.toNat → w.nodeAt j = s.work.nodeAt j) → Holds w (nextIx s) T) :
    ∃ w, addNode nd s = .ok () (s.setWork w) ∧
      w = { s.work with node := w.node, nnodes := w.nnodes, heap := w.heap, hsize := w.hsize } ∧
      w.nnodes.toNat = s.work.nnodes.toNat + 1 ∧
      Planted w (F ++ [(BitVec.ofNat 9 s.work.nnodes.toNat, T)]) := by
  have hs := h.hsize
  have hx := nextIx_toNat hn
  have hix : nextIx s = BitVec.ofNat 9 s.work.nnodes.toNat := BitVec.eq_of_toNat_eq (by
    rw [hx, BitVec.toNat_ofNat]
    omega)
  have hnn : (s.work.nnodes + 1).toNat = s.work.nnodes.toNat + 1 := by bv_omega
  have hlt : ∀ j ∈ s.work.heap, j.toNat < s.work.nnodes.toNat := by
    intro j hj
    rw [h.heap] at hj
    obtain ⟨x, hx, rfl⟩ := List.mem_map.1 hj
    exact (h.holds x hx).lt
  have hold : ∀ j : NodeIx, j.toNat < s.work.nnodes.toNat →
      (s.work.setNode (nextIx s) nd).nodeAt j = s.work.nodeAt j := fun j hj =>
    Work.nodeAt_setNode_ne _ _ (by rintro rfl; omega)
  have hadd : heapAdd (nextIx s) s.work.heap = s.work.heap ++ [nextIx s] := by
    have hlt' : ∀ j ∈ s.work.heap, j.toNat < (nextIx s).toNat := hx ▸ hlt
    generalize s.work.heap = l at hlt'
    induction l with
    | nil => rfl
    | cons j l ih =>
      have hj := hlt' j List.mem_cons_self
      rw [heapAdd, if_neg (by omega), if_neg (by rintro rfl; omega), ih fun k hk => hlt' k (List.mem_cons_of_mem _ hk)]
      rfl
  refine ⟨_, addNode_of_room hn (by omega), rfl, hnn, ?_, ?_, heapAdd_sorted h.rising, fun x hx => ?_⟩
  · rw [Work.setHeap_heap, hadd, h.heap, hix]
    simp
  · rw [Work.setHeap_hsize]
    simp only [List.length_append, List.length_singleton]
    bv_omega
  · rcases List.mem_append.1 hx with hx | hx
    · exact (h.holds x hx).mono (by rw [Work.setHeap_nnodes, Work.setNnodes_nnodes, hnn]; omega) hold
    · rw [List.mem_singleton.1 hx, ← hix]
      exact hT _ hnn (Work.nodeAt_setNode_same _ _ (by omega)) hold

end Sys2Proof.Proofs

namespace Sys2Proof.Proofs

open Sys2Proof.Machine Sys2Proof.Safety Sys2Proof.Reference

/-! ### BUILD -/

/-- The frequency table as numbers. -/
def freqOf (w : Work) (b : Byte) : Nat := (w.freqAt b).toNat

/-- Only registers that BUILD writes differ. -/
def BuildOnly (w w' : Work) : Prop :=
  w' = { w with node := w'.node, nnodes := w'.nnodes, heap := w'.heap, hsize := w'.hsize, scan := w'.scan,
                root := w'.root }

theorem BuildOnly.refl (w : Work) : BuildOnly w w := rfl

theorem BuildOnly.trans {w w' w'' : Work} (h : BuildOnly w w') (h' : BuildOnly w' w'') : BuildOnly w w'' := by
  unfold BuildOnly
  rw [h', h]

theorem BuildOnly.freqOf {w w' : Work} (h : BuildOnly w w') : freqOf w' = freqOf w := by
  rw [h]
  rfl

/-- The registers that say how far BUILD is do not depend on SCAN. -/
theorem Planted.setScan {w : Work} {F : Forest} (h : Planted w F) (z : BitVec 9) : Planted (w.setScan z) F :=
  ⟨h.heap, h.hsize, h.rising, fun x hx => (h.holds x hx).congr rfl rfl⟩

/-- LEAF plants the Leaf of its Symbol (R136). -/
theorem leaf_planted {s : State} {bs : List Byte} {b : Byte} (hb : s.work.scan.toNat = b.toNat)
    (h : Planted s.work (leafForest (freqOf s.work) bs)) (hn : s.work.nnodes.toNat = bs.length)
    (hl : bs.length < 256) :
    ∃ w, leaf s = .ok () (s.setWork w) ∧ BuildOnly s.work w ∧ w.scan = s.work.scan ∧
      w.nnodes.toNat = (bs ++ [b]).length ∧ Planted w (leafForest (freqOf s.work) (bs ++ [b])) := by
  have hT : ∀ w : Work, w.nnodes.toNat = s.work.nnodes.toNat + 1 →
      w.nodeAt (nextIx s) = some (leafNode b (s.work.freqAt b)) →
      (∀ j : NodeIx, j.toNat < s.work.nnodes.toNat → w.nodeAt j = s.work.nodeAt j) →
      Holds w (nextIx s) (.leaf b (freqOf s.work b)) := fun w hw hnd _ =>
    ⟨by rw [hw, nextIx_toNat (by omega)]; omega, _, hnd, rfl, rfl, rfl⟩
  obtain ⟨w, hw, hwork, hnn, hp⟩ := addNode_planted h (by omega) (by rw [leafForest_length]; omega) hT
  refine ⟨w, ?_, ?_, ?_, ?_, ?_⟩
  · rw [leaf, scanSymbol_of_symbol hb, Res.bind_ok, hw]
  · unfold BuildOnly
    rw [hwork]
  · rw [hwork]
  · rw [hnn, hn, List.length_append, List.length_singleton]
  · rwa [leafForest_concat, ← hn]

/-- The next turn of the leaf scan is the next Symbol of those used. -/
theorem nextSymbol_of_used {w : Work} {k : Nat} {bs rest : List Byte} (hN : usedSyms (freqOf w) = bs ++ rest)
    (hlo : ∀ b ∈ bs, b.toNat < k) (hhi : ∀ b ∈ rest, k ≤ b.toNat) : nextSymbol k w = rest.head? := by
  have hf : nextSymbol k w = (usedSyms (freqOf w)).find? fun b => decide (k ≤ b.toNat) := by
    rw [nextSymbol_eq, usedSyms, List.find?_filter]
    refine congrArg (symbols.find? ·) (funext fun b => ?_)
    rw [Bool.eq_iff_iff]
    simp [freqOf, BitVec.toNat_eq, and_comm]
  rw [hf, hN, List.find?_append, List.find?_eq_none.2 (by simpa using hlo), Option.none_or]
  cases rest with
  | nil => rfl
  | cons b rest => simp [hhi b List.mem_cons_self]

/-- The used Symbols ascend (R138). -/
theorem usedSyms_split {freq : Byte → Nat} {bs rest : List Byte} {b : Byte} (h : usedSyms freq = bs ++ b :: rest) :
    (∀ c ∈ bs, c.toNat < b.toNat) ∧ ∀ c ∈ rest, b.toNat < c.toNat := by
  have hp : ((usedSyms freq).map BitVec.toNat).Pairwise (· < ·) :=
    symbols_ascend.sublist (List.filter_sublist.map BitVec.toNat)
  rw [h, List.map_append, List.map_cons, List.pairwise_append, List.pairwise_cons] at hp
  obtain ⟨-, ⟨hafter, -⟩, hbefore⟩ := hp
  exact ⟨fun c hc => hbefore _ (List.mem_map_of_mem hc) _ List.mem_cons_self,
    fun c hc => hafter _ (List.mem_map_of_mem hc)⟩

/-- Wherever the leaf scan goes, a command still runs. -/
theorem leafScan_busy (k : Nat) (s : State) : (leafScan k s).phase ≠ 0x00 := by
  obtain ⟨z, p, hz, hp⟩ := leafScan_cases k s
  rw [hz, State.setPhase_phase]
  rcases hp with rfl | rfl | rfl <;> decide

/-- The leaf scan plants the Leaves of the Symbols still to come (R138, R139). -/
theorem leafScan_reaches {s : State} {k : Nat} {bs rest : List Byte} (hsub : s.sub = none)
    (hN : usedSyms (freqOf s.work) = bs ++ rest) (hlo : ∀ b ∈ bs, b.toNat < k) (hhi : ∀ b ∈ rest, k ≤ b.toNat)
    (hn : s.work.nnodes.toNat = bs.length) (h : Planted s.work (leafForest (freqOf s.work) bs)) :
    ∃ w, Reaches (leafScan k s) (mergeOrRoot (s.setWork w)) ∧ BuildOnly s.work w ∧
      w.nnodes.toNat = (usedSyms (freqOf s.work)).length ∧
      Planted w (leafForest (freqOf s.work) (usedSyms (freqOf s.work))) := by
  have hnext := nextSymbol_of_used hN hlo hhi
  induction rest generalizing s k bs with
  | nil =>
    rw [leafScan_none hnext]
    rw [hN, List.append_nil]
    refine ⟨s.work.setScan 256, ?_, rfl, hn, h.setScan 256⟩
    rw [mergeOrRoot_eq]
    exact .refl _
  | cons b rest ih =>
    have hlen := usedSyms_length_le (freqOf s.work)
    rw [hN, List.length_append, List.length_cons] at hlen
    rw [leafScan_some hnext]
    have hb : (b.setWidth 9).toNat = b.toNat := by
      simp only [BitVec.toNat_setWidth]
      omega
    set u := (s.setWork (s.work.setScan (b.setWidth 9))).setPhase 0x12 with hu
    obtain ⟨w, hw, hwo, hscan, hwn, hwp⟩ := leaf_planted (s := u) (b := b) hb (h.setScan _) hn (by omega)
    have hfreq : freqOf w = freqOf s.work := hwo.freqOf
    have hk : w.scan.toNat + 1 = b.toNat + 1 := by rw [hscan]; exact congrArg (· + 1) hb
    obtain ⟨hbefore, hafter⟩ := usedSyms_split hN
    have hN' : usedSyms (freqOf (u.setWork w).work) = (bs ++ [b]) ++ rest := by
      rw [State.setWork_work, hfreq, hN, List.append_assoc]
      rfl
    have hlo' : ∀ c ∈ bs ++ [b], c.toNat < b.toNat + 1 := by
      intro c hc
      rcases List.mem_append.1 hc with hc | hc
      · exact (hbefore c hc).trans (Nat.lt_succ_self _)
      · rw [List.mem_singleton.1 hc]
        exact Nat.lt_succ_self _
    obtain ⟨w', hr, hwo', hwn', hwp'⟩ := ih (s := u.setWork w) hsub hN' hlo' hafter hwn
      (by rw [State.setWork_work, hfreq]; exact hwp) (nextSymbol_of_used hN' hlo' hafter)
    rw [State.setWork_work, hfreq] at hwn' hwp'
    refine ⟨w', ?_, ?_, hwn', hwp'⟩
    · have hstep : Reaches u (leafScan (b.toNat + 1) (u.setWork w)) := by
        have hr := reaches_of_ok (s := u) (i := .leaf) (k := afterLeaf) hsub rfl rfl rfl hw
          (leafScan_busy _ _)
        rwa [afterLeaf, State.setWork_work, hk] at hr
      refine hstep.trans (.trans hr ?_)
      rw [mergeOrRoot_eq, mergeOrRoot_eq, hu]
      exact .refl _
    · exact BuildOnly.trans (w' := u.work) rfl (hwo.trans hwo')

/-- MERGE replaces the two lightest trees of the forest by their join (R141). -/
theorem merge_planted {s : State} {F : Forest} (h : Planted s.work F) (h2 : 2 ≤ F.length)
    (hn : s.work.nnodes.toNat < 511) (hl : F.length ≤ 257) (htot : F.total < 2 ^ 64) :
    ∃ w, merge s = .ok () (s.setWork w) ∧ BuildOnly s.work w ∧ w.nnodes.toNat = s.work.nnodes.toNat + 1 ∧
      Planted w (mergeForest s.work.nnodes.toNat F) := by
  obtain ⟨x, y, hx, hy, hperm, hm⟩ := mergeForest_spec (n := s.work.nnodes.toNat) h2 h.nodup
  obtain ⟨he, hp⟩ := heapExtract_planted h (by omega) hx
  set w1 := s.work.setHeap (s.work.heap.erase x.1) (s.work.hsize - 1) with hw1
  obtain ⟨he', hp'⟩ := heapExtract_planted (s := s.setWork w1) hp (by exact hn.le) hy
  simp only [State.setWork_work, State.setWork_setWork] at he' hp'
  set w2 := w1.setHeap (w1.heap.erase y.1) (w1.hsize - 1) with hw2
  have hlen := hperm.length_eq
  simp only [List.length_cons] at hlen
  have hxw : w2.weightAt x.1 = x.2.weight := ((h.holds x (leastTree_mem hx)).congr rfl rfl).weightAt
  have hyw : w2.weightAt y.1 = y.2.weight :=
    ((hp.holds y (leastTree_mem hy)).congr (w' := w2) rfl rfl).weightAt
  have hsum : x.2.weight + y.2.weight < 2 ^ 64 := by
    have := (hperm.map fun z => z.2.weight).sum_eq
    rw [Forest.total, this] at htot
    simp only [List.map_cons, List.sum_cons] at htot
    omega
  have hT : ∀ w : Work, w.nnodes.toNat = w2.nnodes.toNat + 1 →
      w.nodeAt (nextIx (s.setWork w2)) = some (internalNode (BitVec.ofNat 64 (x.2.weight + y.2.weight)) x.1 y.1) →
      (∀ j : NodeIx, j.toNat < w2.nnodes.toNat → w.nodeAt j = w2.nodeAt j) →
      Holds w (nextIx (s.setWork w2)) (.node x.2 y.2) := fun w hw hnd hold => by
    refine ⟨?_, _, hnd, rfl, ?_, ?_, ?_⟩
    · rw [hw, nextIx_toNat (by exact hn)]
      exact Nat.lt_succ_self _
    · simp only [internalNode, BitVec.toNat_ofNat]
      exact Nat.mod_eq_of_lt hsum
    · exact ((h.holds x (leastTree_mem hx)).congr (w' := w2) rfl rfl).mono (by omega) hold
    · exact ((hp.holds y (leastTree_mem hy)).congr (w' := w2) rfl rfl).mono (by omega) hold
  obtain ⟨w, hw, hwork, hnn, hpl⟩ := addNode_planted (s := s.setWork w2) hp' hn (by omega) hT
  refine ⟨w, ?_, ?_, hnn, by rw [hm]; exact hpl⟩
  · rw [merge, he, Res.bind_ok, he', Res.bind_ok, State.setWork_work, hxw, hyw, store_fits hsum, Res.bind_ok, hw]
    rfl
  · unfold BuildOnly
    rw [hwork]
    rfl

/-- The MERGEs of BUILD, down to one tree (R140). -/
theorem merges_reach {k : Nat} {s : State} {F : Forest} (hsub : s.sub = none) (hl : F.length = k + 1)
    (h : Planted s.work F) (hk : k ≤ 255) (hn : s.work.nnodes.toNat + k ≤ 511) (htot : F.total < 2 ^ 64) :
    ∃ w, Reaches (mergeOrRoot s) ((s.setWork w).setPhase 0x16) ∧ BuildOnly s.work w ∧ w.nnodes.toNat ≤ 511 ∧
      Planted w (mergeForests k s.work.nnodes.toNat F) := by
  induction k generalizing s F with
  | zero =>
    refine ⟨s.work, ?_, .refl _, by omega, h⟩
    rw [mergeOrRoot_eq, if_neg (by rw [h.hsize]; omega)]
    exact .refl _
  | succ k ih =>
    have h2 : 2 ≤ F.length := by omega
    rw [mergeOrRoot_eq, if_pos (by rw [h.hsize]; omega)]
    obtain ⟨w, hw, hwo, hwn, hwp⟩ := merge_planted (s := s.setPhase 0x15) h h2
      (by rw [State.setPhase_work]; omega) (by omega) htot
    have hlen := mergeForest_length (n := s.work.nnodes.toNat) h2 h.nodup
    obtain ⟨w', hr, hwo', hwn', hwp'⟩ := ih (s := (s.setPhase 0x15).setWork w) hsub
      (by rw [State.setPhase_work]; omega) hwp (by omega)
      (by rw [State.setWork_work, hwn, State.setPhase_work]; omega)
      (by rw [State.setPhase_work, mergeForest_total h2 h.nodup]; exact htot)
    refine ⟨w', ?_, hwo.trans hwo', hwn', by rw [State.setWork_work, hwn] at hwp'; exact hwp'⟩
    refine (reaches_of_ok (s := s.setPhase 0x15) (i := .merge) (k := afterMerge) hsub rfl rfl rfl hw ?_).trans hr
    rw [afterMerge, mergeOrRoot_eq, State.setPhase_phase]
    split <;> decide

/-- ROOT takes the last tree (R142). -/
theorem root_planted {s : State} {r : NodeIx} {T : HTree} (h : Planted s.work [(r, T)])
    (hn : s.work.nnodes.toNat ≤ 511) :
    ∃ w, root s = .ok () (s.setWork w) ∧ BuildOnly s.work w ∧ w.root = r ∧ r ≠ Config.nil ∧ Holds w r T := by
  obtain ⟨he, -⟩ := heapExtract_planted h hn rfl
  have hT := h.holds (r, T) List.mem_cons_self
  refine ⟨(s.work.setHeap (s.work.heap.erase r) (s.work.hsize - 1)).setRoot r, ?_, rfl, rfl, ?_, hT.congr rfl rfl⟩
  · rw [root, if_neg (h.hsize_ne_zero (List.cons_ne_nil _ _)), he, Res.bind_ok, putWork_eq]
    rfl
  · rintro rfl
    exact absurd hT.lt (by change ¬ 511 < _; omega)

/-- Where ROOT sends the sequencer, a command still runs. -/
theorem afterRoot_busy (s : State) : (afterRoot s).phase ≠ 0x00 := by
  unfold afterRoot
  split
  · split
    · exact (by decide : (0x1F : Byte) ≠ 0x00)
    · exact (by decide : (0x17 : Byte) ≠ 0x00)
  · exact (by decide : (0x20 : Byte) ≠ 0x00)

/-- Where ROOT sends the sequencer does not depend on PHASE. -/
theorem afterRoot_setPhase (s : State) (p : Byte) : afterRoot (s.setPhase p) = afterRoot s := by
  unfold afterRoot
  rw [State.setPhase_op, State.setPhase_work]
  split
  · split <;> rfl
  · rfl

/-- BUILD of a nonzero table makes the tree that the table alone determines, and ROOT takes it (R137 to R142, R147). -/
theorem build_reaches {s : State} {r : NodeIx} {T : HTree} (hsub : s.sub = none) (hn : s.work.nnodes = 0)
    (hh : s.work.heap = []) (hs : s.work.hsize = 0) (hu : usedSyms (freqOf s.work) ≠ [])
    (hsum : (symbols.map (freqOf s.work)).sum < 2 ^ 64) (hT : huffForest (freqOf s.work) = [(r, T)]) :
    ∃ w, Reaches (leafScan 0 s) (afterRoot (s.setWork w)) ∧ BuildOnly s.work w ∧ w.root = r ∧ r ≠ Config.nil ∧
      Holds w r T := by
  have hpos := List.length_pos_iff.2 hu
  have hle := usedSyms_length_le (freqOf s.work)
  have hP : Planted s.work (leafForest (freqOf s.work) []) :=
    ⟨hh, by rw [hs]; rfl, by rw [hh]; exact .nil, fun x hx => nomatch hx⟩
  obtain ⟨w, hr, hwo, hwn, hwp⟩ := leafScan_reaches (k := 0) (bs := []) hsub rfl (fun b hb => nomatch hb)
    (fun b _ => Nat.zero_le _) (by rw [hn]; rfl) hP
  obtain ⟨w', hr', hwo', hwn', hwp'⟩ := merges_reach (k := (usedSyms (freqOf s.work)).length - 1) (s := s.setWork w)
    hsub (by rw [leafForest_length]; omega) hwp (by omega) (by rw [State.setWork_work, hwn]; omega)
    (by rw [leafForest_total, usedSyms_sum]; exact hsum)
  simp only [State.setWork_work, State.setWork_setWork, hwn] at hr' hwo' hwp'
  change Planted w' (huffForest (freqOf s.work)) at hwp'
  rw [hT] at hwp'
  obtain ⟨w'', hw, hwo'', hroot, hnil, hholds⟩ := root_planted (s := (s.setWork w').setPhase 0x16) hwp' hwn'
  have hstep : Reaches ((s.setWork w').setPhase 0x16) (afterRoot ((s.setWork w'').setPhase 0x16)) :=
    reaches_of_ok (i := .root) hsub rfl rfl rfl hw (afterRoot_busy _)
  rw [afterRoot_setPhase] at hstep
  exact ⟨w'', (hr.trans hr').trans hstep, (hwo.trans hwo').trans hwo'', hroot, hnil, hholds⟩

end Sys2Proof.Proofs

namespace Sys2Proof.Proofs

open Sys2Proof.Machine Sys2Proof.Safety Sys2Proof.Reference

/-! ### CGEN -/

theorem visit_leaf {room : Nat} {i : NodeIx} {path : BitString} {s : State} {nd : Node}
    (h : s.work.nodeAt i = some nd) (ht : nd.tag = .leaf) :
    visit room i path s = .ok () (s.setWork (s.work.setCode nd.sym path)) := by
  cases room <;> (unfold visit; simp only [h, ht, putWork_eq])

theorem visit_internal {room : Nat} {i : NodeIx} {path : BitString} {s : State} {nd : Node}
    (h : s.work.nodeAt i = some nd) (ht : nd.tag = .internal) :
    visit (room + 1) i path s =
      (visit room nd.left (path ++ [0]) s).bind fun _ t => visit room nd.right (path ++ [1]) t := by
  rw [visit]
  simp only [h, ht]

/-- The visit of a tree writes the path to each of its Leaves and no other code (R157). -/
theorem visit_codes {T : HTree} {room : Nat} {i : NodeIx} {path : BitString} {s : State} (h : Holds s.work i T)
    (hroom : T.height ≤ room) :
    ∃ w, visit room i path s = .ok () (s.setWork w) ∧ w = { s.work with code := w.code } ∧
      ∀ b, w.codeAt b = (T.path b).elim (s.work.codeAt b) fun p => some (path ++ p) := by
  induction T generalizing room i path s with
  | leaf c n =>
    obtain ⟨-, nd, hnd, ht, rfl, -⟩ := h
    refine ⟨_, visit_leaf hnd ht, rfl, fun b => ?_⟩
    by_cases hb : b = nd.sym
    · simp [HTree.path, hb]
    · simp [HTree.path, hb, Work.codeAt_setCode_ne]
  | node l r ihl ihr =>
    obtain ⟨-, nd, hnd, ht, -, hl, hr⟩ := h
    have hh : l.height < room ∧ r.height < room := by simp only [HTree.height] at hroom; omega
    obtain ⟨room, rfl⟩ := Nat.exists_eq_succ_of_ne_zero (Nat.ne_of_gt (Nat.zero_lt_of_lt hh.1))
    obtain ⟨w, hw, hwo, hwc⟩ := ihl (path := path ++ [0]) hl (Nat.le_of_lt_succ hh.1)
    have hr' : Holds (s.setWork w).work nd.right r := by
      rw [State.setWork_work, hwo]
      exact hr.congr rfl rfl
    obtain ⟨w', hw', hwo', hwc'⟩ := ihr (path := path ++ [1]) hr' (Nat.le_of_lt_succ hh.2)
    refine ⟨w', ?_, ?_, fun b => ?_⟩
    · rw [visit_internal hnd ht, hw, Res.bind_ok, hw', State.setWork_setWork]
    · rw [hwo', State.setWork_work, hwo]
    · rw [hwc', State.setWork_work, hwc, HTree.path]
      cases r.path b with
      | some p => simp
      | none => cases l.path b <;> simp

/-- CGEN writes the code of each Leaf's Symbol and no other (R157, R158). -/
theorem cgen_codes {s : State} {T : HTree} (h : Holds s.work s.work.root T) (hT : T.syms.length ≤ 256) :
    ∃ w, cgen s = .ok () (s.setWork w) ∧ w = { s.work with code := w.code } ∧
      ∀ b, w.codeAt b = (T.code b).elim (s.work.codeAt b) some := by
  cases T with
  | leaf c n =>
    obtain ⟨-, nd, hnd, ht, rfl, -⟩ := h
    refine ⟨s.work.setCode nd.sym Config.singleCode, by simp [cgen, getNode, hnd, ht], rfl, fun b => ?_⟩
    by_cases hb : b = nd.sym
    · simp [HTree.code, hb]
    · simp [HTree.code, hb, Work.codeAt_setCode_ne]
  | node l r =>
    obtain ⟨-, nd, hnd, ht, -⟩ := id h
    have := HTree.height_lt_syms (.node l r)
    obtain ⟨w, hw, hwo, hwc⟩ := visit_codes (room := Config.maxClen) (path := []) h (by unfold Config.maxClen; omega)
    exact ⟨w, by simp [cgen, getNode, hnd, ht, hw], hwo, fun b => by rw [hwc]; rfl⟩

/-! ### HSER -/

theorem res_bind_assoc {α β γ : Type} (r : Res α) (k : α → State → Res β) (l : β → State → Res γ) :
    (r.bind k).bind l = r.bind fun a s => (k a s).bind l := by
  cases r <;> rfl

/-- The working state with the registers of the header (R191 to R194). -/
def headerWork (w : Work) : Work :=
  ((w.setScount (BitVec.ofNat 32 (distinctSymbols w))).setTbits (BitVec.ofNat 64 (bitSum w))).setVbits
    (BitVec.ofNat 8 ((bitSum w - 1) % 8 + 1))

theorem headerRegs_eq {s : State} (h1 : 1 ≤ bitSum s.work) (h2 : bitSum s.work < 2 ^ 64) :
    headerRegs s = .ok () (s.setWork (headerWork s.work)) := by
  have hb : (BitVec.ofNat 64 (bitSum s.work)).toNat = bitSum s.work := by
    rw [BitVec.toNat_ofNat, Nat.mod_eq_of_lt h2]
  have h0 : BitVec.ofNat 64 (bitSum s.work) ≠ 0 := fun hc => by
    have h0 : bitSum s.work = 0 := hb.symm.trans (congrArg BitVec.toNat hc)
    omega
  have hsum : bitSum (s.work.setScount (BitVec.ofNat 32 (distinctSymbols s.work))) = bitSum s.work := rfl
  simp only [headerRegs, putWork_eq, Res.bind_ok, State.setWork_work, hsum, store_fits h2, validBits,
    Work.setTbits_tbits, if_neg h0, hb]
  rfl

/-- What a row of FREQ puts into the header (R82, R192). -/
def rowBytes (row : Byte × Word) : List Byte := if row.2 = 0 then [] else row.1 :: leBytes 8 row.2.toNat

theorem le_outCap_of_appended {s t : State} {bs : List Byte} (h : Appended s t bs)
    (hf : s.outLen.toNat + bs.length ≤ s.outCap.toNat) : t.outLen.toNat ≤ t.outCap.toNat := by
  rw [h.len, h.outCap]
  exact hf

/-- A sequence of appending rules, where the second may take for granted that the first had room. -/
theorem appends_bind {s : State} {r : Res Unit} {k : Unit → State → Res Unit} {bs cs : List Byte}
    (h : Appends s r bs) (hk : ∀ t, Appended s t bs → t.outLen.toNat ≤ t.outCap.toNat → Appends t (k () t) cs) :
    Appends s (r.bind k) (bs ++ cs) := by
  by_cases hb : s.outLen.toNat + bs.length ≤ s.outCap.toNat
  · exact h.bind fun t ht => hk t ht (le_outCap_of_appended ht hb)
  · obtain ⟨u, rfl, hu⟩ := h.full (by omega)
    exact ⟨fun hf => absurd hf (by rw [List.length_append]; omega), fun _ => ⟨u, rfl, hu⟩⟩

theorem appends_putPair (row : Byte × Word) (s : State) (h : s.outLen.toNat ≤ s.outCap.toNat) :
    Appends s (putPair row s) (rowBytes row) := by
  unfold putPair rowBytes
  split
  · exact appends_nil s h
  · exact appends_bind (appends_putOut row.1 s) fun t _ ht => appends_putOutN 8 _ t ht

theorem appends_putPairs (rows : List (Byte × Word)) (s : State) (h : s.outLen.toNat ≤ s.outCap.toNat) :
    Appends s (forEach rows putPair s) (rows.flatMap rowBytes) := by
  induction rows generalizing s with
  | nil => exact appends_nil s h
  | cons row rows ih => exact appends_bind (appends_putPair row s h) fun t _ ht => ih t ht

/-- A frequency is 0 as a word where it is 0 as a number. -/
theorem freqAt_bne_zero (w : Work) (b : Byte) : (w.freqAt b != 0) = (freqOf w b != 0) := by
  rw [Bool.eq_iff_iff]
  simp [freqOf, BitVec.toNat_eq]

theorem distinct_freqOf (w : Work) : distinct (freqOf w) = distinctSymbols w := by
  simp only [distinct, distinctSymbols_eq, freqAt_bne_zero]

theorem rowBytes_freqRows (w : Work) : w.freqRows.flatMap rowBytes = pairBytes (freqOf w) := by
  rw [Work.freqRows_eq, pairBytes, List.flatMap_map]
  induction symbols with
  | nil => rfl
  | cons b l ih =>
    have hb := freqAt_bne_zero w b
    by_cases h : w.freqAt b = 0
    · rw [List.filter_cons_of_neg (by rw [← hb, h]; simp), List.flatMap_cons, ih]
      simp [rowBytes, h]
    · rw [List.filter_cons_of_pos (by rw [← hb]; simpa using h), List.flatMap_cons, List.flatMap_cons, ih]
      simp only [rowBytes]
      rw [if_neg h]
      rfl

theorem pairBytes_length (freq : Byte → Nat) : (pairBytes freq).length = 9 * distinct freq := by
  simp [pairBytes, distinct, List.length_flatMap, leBytes_length, Nat.mul_comm]

theorem headerBytes_length (freq : Byte → Nat) (total : Nat) :
    (headerBytes freq total).length = 13 + 9 * distinct freq := by
  simp only [headerBytes, List.length_append, leBytes_length, pairBytes_length, List.length_singleton]
  omega

theorem distinct_le (freq : Byte → Nat) : distinct freq ≤ 256 := usedSyms_length_le freq

/-- What HSER appends, behind the registers of the header. -/
theorem appends_header {s : State} (h2 : bitSum s.work < 2 ^ 64)
    (hcap : s.outLen.toNat ≤ s.outCap.toNat) :
    Appends (s.setWork (headerWork s.work))
      ((putOutN 4 (headerWork s.work).scount.toNat (s.setWork (headerWork s.work))).bind fun _ s2 =>
        (forEach s2.work.freqRows putPair s2).bind fun _ s3 =>
        (putOut s3.work.vbits s3).bind fun _ s4 => putOutN 8 s4.work.tbits.toNat s4)
      (headerBytes (freqOf s.work) (bitSum s.work)) := by
  set u := s.setWork (headerWork s.work)
  have hbytes : headerBytes (freqOf s.work) (bitSum s.work) =
      leBytes 4 (headerWork s.work).scount.toNat ++ (u.work.freqRows.flatMap rowBytes ++
        ([u.work.vbits] ++ leBytes 8 u.work.tbits.toNat)) := by
    have hc : (headerWork s.work).scount.toNat = distinct (freqOf s.work) := by
      have := distinct_le (freqOf s.work)
      simp only [headerWork, Work.setVbits_scount, Work.setTbits_scount, Work.setScount_scount, ← distinct_freqOf,
        BitVec.toNat_ofNat]
      omega
    have ht : u.work.tbits.toNat = bitSum s.work := by
      simp only [u, State.setWork_work, headerWork, Work.setVbits_tbits, Work.setTbits_tbits, BitVec.toNat_ofNat,
        Nat.mod_eq_of_lt h2]
    have hf : freqOf u.work = freqOf s.work := rfl
    rw [hc, ht, rowBytes_freqRows, hf, headerBytes, List.append_assoc, List.append_assoc]
    rfl
  rw [hbytes]
  refine appends_bind (appends_putOutN 4 _ u hcap) fun t ht hr => ?_
  rw [← ht.work]
  refine appends_bind (appends_putPairs _ t hr) fun v hv hr => ?_
  rw [← hv.work]
  refine appends_bind (appends_putOut _ v) fun x hx hr => ?_
  rw [← hx.work]
  exact appends_putOutN 8 _ x hr

/-- HSER where the header fits, and where it does not (R191 to R194, R58). -/
theorem hser_cases {s : State} (h1 : 1 ≤ bitSum s.work) (h2 : bitSum s.work < 2 ^ 64)
    (hcap : s.outLen.toNat ≤ s.outCap.toNat) :
    (∃ t, hser s = .ok () (t.setWork ((headerWork s.work).setScan 256)) ∧
      Appended (s.setWork (headerWork s.work)) t (headerBytes (freqOf s.work) (bitSum s.work))) ∨
    (s.outCap.toNat < s.outLen.toNat + (13 + 9 * distinct (freqOf s.work)) ∧ ∃ u, hser s = .raise .ioOutFull u) := by
  have ha := appends_header h2 hcap
  have hh : hser s = ((putOutN 4 (headerWork s.work).scount.toNat (s.setWork (headerWork s.work))).bind fun _ s2 =>
        (forEach s2.work.freqRows putPair s2).bind fun _ s3 =>
        (putOut s3.work.vbits s3).bind fun _ s4 => putOutN 8 s4.work.tbits.toNat s4).bind
      fun _ s5 => putWork (s5.work.setScan 256) s5 := by
    rw [hser, headerRegs_eq h1 h2]
    simp only [Res.bind_ok, res_bind_assoc, State.setWork_work]
  have hl := headerBytes_length (freqOf s.work) (bitSum s.work)
  by_cases hf : s.outLen.toNat + (13 + 9 * distinct (freqOf s.work)) ≤ s.outCap.toNat
  · obtain ⟨t, ht, hta⟩ := ha.fits (by rw [hl]; exact hf)
    refine .inl ⟨t, ?_, hta⟩
    rw [hh, ht, Res.bind_ok, putWork_eq, hta.work]
    rfl
  · obtain ⟨u, hu, -⟩ := ha.full (by rw [hl]; exact Nat.not_le.1 hf)
    exact .inr ⟨Nat.not_le.1 hf, u, by rw [hh, hu, Res.bind_raise]⟩

end Sys2Proof.Proofs

namespace Sys2Proof.Proofs

open Sys2Proof.Machine Sys2Proof.Safety Sys2Proof.Reference

/-! ### Bit strings as numbers -/

theorem bitsValue_concat (l : BitString) (b : Bit) : bitsValue (l ++ [b]) = 2 * bitsValue l + b.toNat := by
  simp [bitsValue, List.foldl_append]

theorem bitsValue_lt (l : BitString) : bitsValue l < 2 ^ l.length := by
  induction l using List.reverseRecOn with
  | nil => exact Nat.one_pos
  | append_singleton l b ih =>
    rw [bitsValue_concat, List.length_append, List.length_singleton, pow_succ]
    have := b.isLt
    omega

/-- Zero bits behind a bit string shift it. -/
theorem bitsValue_zeros (l : BitString) (n : Nat) : bitsValue (l ++ List.replicate n 0) = bitsValue l * 2 ^ n := by
  induction n with
  | zero => simp
  | succ n ih =>
    rw [List.replicate_succ', ← List.append_assoc, bitsValue_concat, ih, pow_succ]
    simp only [BitVec.ofNat_eq_ofNat, BitVec.toNat_ofNat, Nat.zero_mod, Nat.add_zero]
    ring

/-- Bit `k` of a bit string, read off its value: the first bit is the most significant. -/
theorem getElem?_eq_bitsValue {l : BitString} {k : Nat} (hk : k < l.length) :
    l[k]? = some (BitVec.ofNat 1 (bitsValue l / 2 ^ (l.length - 1 - k) % 2)) := by
  induction l using List.reverseRecOn with
  | nil => exact absurd hk (Nat.not_lt_zero k)
  | append_singleton l b ih =>
    have hb := b.isLt
    rw [bitsValue_concat, List.length_append, List.length_singleton]
    by_cases hkl : k < l.length
    · rw [List.getElem?_append_left hkl, ih hkl, show l.length + 1 - 1 - k = (l.length - 1 - k) + 1 by omega,
        Nat.pow_succ', ← Nat.div_div_eq_div_mul, show (2 * bitsValue l + b.toNat) / 2 = bitsValue l by omega]
    · rw [List.length_append, List.length_singleton] at hk
      obtain rfl : k = l.length := by omega
      rw [List.getElem?_concat_length]
      congr 1
      apply BitVec.eq_of_toNat_eq
      simp only [BitVec.toNat_ofNat, Nat.add_sub_cancel, Nat.sub_self, pow_zero, Nat.div_one]
      omega

/-- The byte that eight bits make, and its bits (R56, R175). -/
theorem payloadBit_bitsValue {l : BitString} (hl : l.length = 8) (k : Nat) :
    l[k % 8]? = some (payloadBit (BitVec.ofNat 8 (bitsValue l)) k) := by
  have hv := bitsValue_lt l
  rw [hl] at hv
  rw [getElem?_eq_bitsValue (by omega), hl, payloadBit, BitVec.toNat_ofNat, Nat.mod_eq_of_lt hv]

/-! ### The bit writer -/

/-- A part of PAYLOAD: only the writer's registers, IPTR, PHASE and the bytes appended to OUT differ. -/
structure WriterRun (s t : State) : Prop where
  sub : t.sub = s.sub
  op : t.op = s.op
  inLen : t.inLen = s.inLen
  outCap : t.outCap = s.outCap
  inBuf : t.inBuf = s.inBuf
  work : t.work = { s.work with acc := t.work.acc, held := t.work.held, wbits := t.work.wbits, iptr := t.work.iptr }
  only : OnlyAppended s t

theorem onlyAppended_refl (s : State) : OnlyAppended s s := ⟨Nat.le_refl _, fun _ _ => rfl⟩

theorem onlyAppended_trans {s t u : State} (h : OnlyAppended s t) (h' : OnlyAppended t u) : OnlyAppended s u :=
  ⟨h.1.trans h'.1, fun a ha => (h'.2 a (ha.imp (fun h1 => h1.trans_le h.1) id)).trans
    (h.2 a (ha.imp id fun h2 => h'.1.trans h2))⟩

theorem WriterRun.refl (s : State) : WriterRun s s := ⟨rfl, rfl, rfl, rfl, rfl, rfl, onlyAppended_refl s⟩

theorem WriterRun.trans {s t u : State} (h : WriterRun s t) (h' : WriterRun t u) : WriterRun s u where
  sub := h'.sub.trans h.sub
  op := h'.op.trans h.op
  inLen := h'.inLen.trans h.inLen
  outCap := h'.outCap.trans h.outCap
  inBuf := h'.inBuf.trans h.inBuf
  work := by rw [h'.work, h.work]
  only := onlyAppended_trans h.only h'.only

/-- One byte written at the append pointer. -/
theorem onlyAppended_write {s t : State} {y : Byte} (hr : s.outLen.toNat < s.outCap.toNat)
    (hb : t.outBuf = s.outBuf.write s.outLen.toNat y) (hl : t.outLen = s.outLen + 1) : OnlyAppended s t := by
  have hs := outLen_succ hr
  refine ⟨by rw [hl, hs]; omega, fun a ha => ?_⟩
  rw [hb, Memory.read_write_ne _ _ (by rw [hl, hs] at ha; omega)]

/-- The writer's registers after one more bit, before a full byte is emitted (R173). -/
def shiftedWork (w : Work) (b : Bit) : Work :=
  (w.setAcc (shiftIn w.acc b) (BitVec.ofNat 4 (w.held.toNat + 1))).setWbits (BitVec.ofNat 64 (w.wbits.toNat + 1))

theorem pushBit_eq {b : Bit} {s : State} (hh : s.work.held.toNat < 8) (hw : s.work.wbits.toNat + 1 < 2 ^ 64) :
    pushBit b s = emitFull (s.setWork (shiftedWork s.work b)) := by
  have hh' : s.work.held.toNat + 1 < 2 ^ 4 := by omega
  simp only [pushBit, store_fits hh', store_fits hw, Res.bind_ok, putWork_eq]
  rfl

theorem emitFull_not_full {s : State} (h : s.work.held ≠ 8) : emitFull s = .ok () s := if_neg h

theorem emitFull_of_room {s : State} (h : s.work.held = 8) (hr : s.outLen.toNat < s.outCap.toNat) :
    emitFull s = .ok () ((s.setOut (s.outBuf.write s.outLen.toNat s.work.acc) (s.outLen + 1)).setWork
      (s.work.setAcc 0 0)) := by
  rw [emitFull, if_pos h, putOut_of_room hr, Res.bind_ok, emptyAcc, putWork_eq]
  rfl

theorem emitFull_no_room {s : State} (h : s.work.held = 8) (hr : s.outCap.toNat ≤ s.outLen.toNat) :
    emitFull s = .raise .ioOutFull s := by
  rw [emitFull, if_pos h, putOut_full hr, Res.bind_raise]

/-- The bits of the last byte that FIN writes: those held, then pad bits (R177). -/
def paddedBits (bits : BitString) : BitString :=
  bits.drop (8 * (bits.length / 8)) ++ List.replicate (8 - bits.length % 8) (0 : Bit)

/-- The held bits and the pad bits behind them are eight (R177). -/
theorem paddedBits_length (bits : BitString) : (paddedBits bits).length = 8 := by
  rw [paddedBits, List.length_append, List.length_replicate, List.length_drop]
  omega

/-- The last byte holds the bits still to come, then 0 (R56, R85). -/
theorem payloadBit_padded {bits : BitString} {k : Nat} (hk : 8 * (bits.length / 8) ≤ k)
    (hk' : k < 8 * (bits.length / 8 + 1)) :
    payloadBit (BitVec.ofNat 8 (bitsValue (paddedBits bits))) k = (bits[k]?).getD 0 := by
  have hbit := payloadBit_bitsValue (paddedBits_length bits) k
  have hl : (bits.drop (8 * (bits.length / 8))).length = bits.length % 8 := by
    rw [List.length_drop]
    omega
  by_cases hkb : k < bits.length
  · rw [paddedBits, List.getElem?_append_left (by omega), List.getElem?_drop,
      show 8 * (bits.length / 8) + k % 8 = k by omega] at hbit
    rw [hbit]
    rfl
  · rw [paddedBits, List.getElem?_append_right (by omega), List.getElem?_replicate, if_pos (by omega)] at hbit
    rw [List.getElem?_eq_none (by omega)]
    exact (Option.some.inj hbit).symm

section Push
variable {s : State} {base : Nat} {bits : BitString} (h : WriterHolds s base bits)
include h

/-- The bits held behind the last full byte. -/
theorem heldBits_length : (bits.drop (8 * (bits.length / 8))).length = s.work.held.toNat := by
  rw [List.length_drop, h.held]
  omega

theorem shiftIn_toNat (b : Bit) :
    (shiftIn s.work.acc b).toNat = bitsValue (bits.drop (8 * (bits.length / 8)) ++ [b]) := by
  have hv := bitsValue_lt (bits.drop (8 * (bits.length / 8)))
  have hb := b.isLt
  have hl := heldBits_length h
  have hh := h.held
  have hp : 2 ^ (bits.drop (8 * (bits.length / 8))).length ≤ 2 ^ 7 := Nat.pow_le_pow_right (by decide) (by omega)
  rw [bitsValue_concat, shiftIn, BitVec.toNat_ofNat, h.rest]
  omega

theorem shiftedWork_held_full (b : Bit) (h7 : bits.length % 8 = 7) : (shiftedWork s.work b).held = 8 := by
  rw [shiftedWork, Work.setWbits_held, Work.setAcc_held, h.held, h7]
  rfl

/-- A bit that does not complete a byte is held (R173). -/
theorem pushBit_held (b : Bit) (hw : bits.length + 1 < 2 ^ 64) (h7 : bits.length % 8 < 7) :
    ∃ t, pushBit b s = .ok () t ∧ WriterRun s t ∧ t.work.iptr = s.work.iptr ∧ WriterHolds t base (bits ++ [b]) := by
  have hh := h.held
  have hheld : (shiftedWork s.work b).held.toNat = s.work.held.toNat + 1 := by
    simp only [shiftedWork, Work.setWbits_held, Work.setAcc_held, BitVec.toNat_ofNat]
    omega
  have hlen : (bits ++ [b]).length = bits.length + 1 := by simp
  have hdiv : (bits.length + 1) / 8 = bits.length / 8 := by omega
  refine ⟨s.setWork (shiftedWork s.work b), ?_, ⟨rfl, rfl, rfl, rfl, rfl, rfl, onlyAppended_refl s⟩, rfl,
    ?_, ?_, ?_, ?_, ?_⟩
  · rw [pushBit_eq (by omega) (by rw [h.count]; exact hw), emitFull_not_full]
    intro hc
    rw [State.setWork_work] at hc
    rw [hc] at hheld
    exact absurd hheld (by change ¬ 8 = _; omega)
  · simp only [State.setWork_work, shiftedWork, Work.setWbits_wbits, BitVec.toNat_ofNat, hlen, h.count]
    exact Nat.mod_eq_of_lt hw
  · rw [State.setWork_work, hheld, hlen, hh]
    omega
  · rw [hlen, hdiv]
    exact h.appended
  · intro k hk
    rw [hlen, hdiv] at hk
    obtain ⟨y, hy, hb⟩ := h.full k hk
    exact ⟨y, hy, by rw [List.getElem?_append_left (by omega)]; exact hb⟩
  · rw [hlen, hdiv, List.drop_append_of_le_length (by omega)]
    exact shiftIn_toNat h b

/-- The eighth bit completes a byte, which goes to OUT where there is room (R173). -/
theorem pushBit_emits (b : Bit) (hw : bits.length + 1 < 2 ^ 64) (h7 : bits.length % 8 = 7)
    (hr : s.outLen.toNat < s.outCap.toNat) :
    ∃ t, pushBit b s = .ok () t ∧ WriterRun s t ∧ t.work.iptr = s.work.iptr ∧ WriterHolds t base (bits ++ [b]) := by
  have hh := h.held
  have hheld := shiftedWork_held_full h b h7
  set last := bits.drop (8 * (bits.length / 8)) ++ [b] with hlast
  have hl8 : last.length = 8 := by
    rw [hlast, List.length_append, heldBits_length h, hh, h7]
    rfl
  have hacc : shiftIn s.work.acc b = BitVec.ofNat 8 (bitsValue last) := BitVec.eq_of_toNat_eq (by
    have hv := bitsValue_lt last
    rw [hl8] at hv
    rw [shiftIn_toNat h, BitVec.toNat_ofNat, Nat.mod_eq_of_lt hv])
  have hlen : (bits ++ [b]).length = bits.length + 1 := by simp
  have hdiv : (bits.length + 1) / 8 = bits.length / 8 + 1 := by omega
  refine ⟨_, (pushBit_eq (by omega) (by rw [h.count]; exact hw)).trans (emitFull_of_room hheld hr),
    ⟨rfl, rfl, rfl, rfl, rfl, rfl, onlyAppended_write hr rfl rfl⟩, rfl, ?_, ?_, ?_, ?_, ?_⟩
  · simp only [State.setWork_work, shiftedWork, Work.setAcc_wbits, Work.setWbits_wbits, BitVec.toNat_ofNat, hlen,
      h.count]
    exact Nat.mod_eq_of_lt hw
  · rw [hlen, show (bits.length + 1) % 8 = 0 by omega]
    rfl
  · rw [hlen, hdiv]
    simp only [State.setWork_outLen, State.setOut_outLen, outLen_succ hr, h.appended]
    omega
  · intro k hk
    rw [hlen, hdiv] at hk
    simp only [State.setWork_outBuf, State.setOut_outBuf, State.setWork_outLen, State.setWork_work]
    by_cases hkl : k < 8 * (bits.length / 8)
    · obtain ⟨y, hy, hb⟩ := h.full k hkl
      refine ⟨y, ?_, by rw [List.getElem?_append_left (by omega)]; exact hb⟩
      rw [Memory.read_write_ne _ _ (by rw [h.appended]; omega)]
      exact hy
    · have hk8 : k = 8 * (bits.length / 8) + k % 8 := by omega
      have hsplit : bits ++ [b] = bits.take (8 * (bits.length / 8)) ++ last := by
        rw [hlast, ← List.append_assoc, List.take_append_drop]
      refine ⟨shiftIn s.work.acc b, ?_, ?_⟩
      · rw [show base + k / 8 = s.outLen.toNat by rw [h.appended]; omega]
        exact Memory.read_write_same _ _ _
      · rw [hsplit, List.getElem?_append_right (by rw [List.length_take]; omega), List.length_take,
          show k - min (8 * (bits.length / 8)) bits.length = k % 8 by omega, hacc]
        exact payloadBit_bitsValue hl8 k
  · rw [hlen, hdiv, List.drop_eq_nil_of_le (by rw [hlen]; omega)]
    rfl

/-- Everything PUSH1 can do below the bound of WBITS (R173). -/
theorem pushBit_cases (b : Bit) (hw : bits.length + 1 < 2 ^ 64) :
    (∃ t, pushBit b s = .ok () t ∧ WriterRun s t ∧ t.work.iptr = s.work.iptr ∧ WriterHolds t base (bits ++ [b])) ∨
    (s.outCap.toNat < base + (bits.length + 1) / 8 ∧ ∃ u, pushBit b s = .raise .ioOutFull u) := by
  have hh := h.held
  by_cases h7 : bits.length % 8 < 7
  · exact .inl (pushBit_held h b hw h7)
  · by_cases hr : s.outLen.toNat < s.outCap.toNat
    · exact .inl (pushBit_emits h b hw (by omega) hr)
    · have ha := h.appended
      refine .inr ⟨by omega, _, (pushBit_eq (by omega) (by rw [h.count]; exact hw)).trans 
        (emitFull_no_room (shiftedWork_held_full h b (by omega)) (Nat.not_lt.1 hr))⟩

/-- Everything pushing a code can do (R176). -/
theorem pushBits_cases (code : BitString) (hw : bits.length + code.length < 2 ^ 64) :
    (∃ t, forEach code pushBit s = .ok () t ∧ WriterRun s t ∧ t.work.iptr = s.work.iptr ∧
      WriterHolds t base (bits ++ code)) ∨
    (s.outCap.toNat < base + (bits.length + code.length) / 8 ∧ ∃ u, forEach code pushBit s = .raise .ioOutFull u) := by
  induction code generalizing s bits with
  | nil => exact .inl ⟨s, rfl, .refl s, rfl, by simpa using h⟩
  | cons b code ih =>
    rw [List.length_cons] at hw ⊢
    rw [forEach_cons]
    obtain ⟨t, ht, hrun, hit, hwr⟩ | ⟨hfull, u, hu⟩ := pushBit_cases h b (by omega)
    · have hlen : (bits ++ [b]).length = bits.length + 1 := by simp
      have := ih hwr (by omega)
      rw [hlen, List.append_assoc, List.singleton_append, Nat.add_assoc, Nat.add_comm 1, hrun.outCap] at this
      rw [ht, Res.bind_ok]
      exact this.imp (fun ⟨v, hv, hrun', hit', hwr'⟩ => ⟨v, hv, hrun.trans hrun', hit'.trans hit, hwr'⟩) id
    · exact .inr ⟨by omega, u, by rw [hu, Res.bind_raise]⟩

/-- The padded byte is the value of the padded bits (R177). -/
theorem paddedByte_eq : paddedByte s = .ok (BitVec.ofNat 8 (bitsValue (paddedBits bits))) s := by
  have hh := h.held
  have hv := bitsValue_lt (paddedBits bits)
  rw [paddedBits_length bits] at hv
  rw [paddedByte, if_pos (by omega), h.rest, hh, ← bitsValue_zeros, ← paddedBits, Nat.mod_eq_of_lt (by exact hv)]

/-- The full bytes of the writer hold their bits. -/
theorem payloadBit_full {k : Nat} (hk : k < 8 * (bits.length / 8)) :
    ∃ y, s.outBuf.read (base + k / 8) = some y ∧ payloadBit y k = (bits[k]?).getD 0 := by
  obtain ⟨y, hy, hb⟩ := h.full k hk
  exact ⟨y, hy, by rw [hb]; rfl⟩

/-- FIN with no bit held has nothing to append (R177). -/
theorem fin_none_held (h0 : bits.length % 8 = 0) (hbits : s.work.wbits = s.work.tbits) : fin s = .ok () s := by
  rw [fin, emitHeld, if_neg (by rw [h.held]; omega), Res.bind_ok, if_pos hbits]

/-- FIN with held bits appends the padded byte where there is room (R177). -/
theorem fin_of_room (h0 : bits.length % 8 ≠ 0) (hbits : s.work.wbits = s.work.tbits)
    (hr : s.outLen.toNat < s.outCap.toNat) :
    fin s = .ok () ((s.setOut (s.outBuf.write s.outLen.toNat (BitVec.ofNat 8 (bitsValue (paddedBits bits))))
      (s.outLen + 1)).setWork (s.work.setAcc 0 0)) := by
  rw [fin, emitHeld, if_pos (by rw [h.held]; omega), paddedByte_eq h, Res.bind_ok, putOut_of_room hr, Res.bind_ok,
    emptyAcc, putWork_eq, Res.bind_ok]
  exact if_pos hbits

/-- FIN with held bits and OUT full raises IOError(3) (R58, R177). -/
theorem fin_no_room (h0 : bits.length % 8 ≠ 0) (hr : s.outCap.toNat ≤ s.outLen.toNat) :
    fin s = .raise .ioOutFull s := by
  rw [fin, emitHeld, if_pos (by rw [h.held]; omega), paddedByte_eq h, Res.bind_ok, putOut_full hr]
  rfl

/-- FIN where the last byte fits, and where it does not (R177). -/
theorem fin_cases (hbits : s.work.wbits = s.work.tbits) :
    (∃ t, fin s = .ok () t ∧ SameOutside s t ∧ OnlyAppended s t ∧ t.outLen.toNat = base + (bits.length + 7) / 8 ∧
      ∀ k, k < 8 * ((bits.length + 7) / 8) →
        ∃ y, t.outBuf.read (base + k / 8) = some y ∧ payloadBit y k = (bits[k]?).getD 0) ∨
    (s.outCap.toNat < base + (bits.length + 7) / 8 ∧ ∃ u, fin s = .raise .ioOutFull u) := by
  have ha := h.appended
  by_cases h0 : bits.length % 8 = 0
  · rw [show (bits.length + 7) / 8 = bits.length / 8 by omega]
    exact .inl ⟨s, fin_none_held h h0 hbits, .refl s, onlyAppended_refl s, ha, fun k hk => payloadBit_full h hk⟩
  · rw [show (bits.length + 7) / 8 = bits.length / 8 + 1 by omega]
    by_cases hr : s.outLen.toNat < s.outCap.toNat
    · refine .inl ⟨_, fin_of_room h h0 hbits hr, by constructor <;> rfl, onlyAppended_write hr rfl rfl, ?_,
        fun k hk => ?_⟩
      · simp only [State.setWork_outLen, State.setOut_outLen, outLen_succ hr]
        omega
      · simp only [State.setWork_outBuf, State.setOut_outBuf]
        by_cases hkl : k < 8 * (bits.length / 8)
        · rw [Memory.read_write_ne _ _ (by omega)]
          exact payloadBit_full h hkl
        · refine ⟨BitVec.ofNat 8 (bitsValue (paddedBits bits)), ?_, payloadBit_padded (by omega) hk⟩
          rw [show base + k / 8 = s.outLen.toNat by omega]
          exact Memory.read_write_same _ _ _
    · exact .inr ⟨by omega, s, fin_no_room h h0 (Nat.not_lt.1 hr)⟩

end Push

end Sys2Proof.Proofs

namespace Sys2Proof.Proofs

open Sys2Proof.Machine Sys2Proof.Safety Sys2Proof.Reference

/-! ### Byte strings in a buffer -/

/-- The bytes `bs` stand in the buffer from offset `a` on. -/
def StandsAt (m : Memory) (a : Nat) (bs : List Byte) : Prop := ∀ k, k < bs.length → m.read (a + k) = bs[k]?

theorem standsAt_cons {m : Memory} {a : Nat} {b : Byte} {bs : List Byte} :
    StandsAt m a (b :: bs) ↔ m.read a = some b ∧ StandsAt m (a + 1) bs := by
  refine ⟨fun h => ⟨h 0 (Nat.succ_pos _), fun k hk => ?_⟩, fun ⟨h0, h⟩ k hk => ?_⟩
  · rw [Nat.add_assoc, Nat.add_comm 1]
    exact h (k + 1) (Nat.succ_lt_succ hk)
  · cases k with
    | zero => exact h0
    | succ k =>
      rw [show a + (k + 1) = a + 1 + k by omega]
      exact h k (Nat.lt_of_succ_lt_succ hk)

theorem standsAt_append {m : Memory} {a : Nat} {bs cs : List Byte} :
    StandsAt m a (bs ++ cs) ↔ StandsAt m a bs ∧ StandsAt m (a + bs.length) cs := by
  induction bs generalizing a with
  | nil => simp [StandsAt]
  | cons b bs ih =>
    rw [List.cons_append, standsAt_cons, standsAt_cons, ih, and_assoc, List.length_cons, Nat.add_assoc,
      Nat.add_comm 1]

/-- `inp` is what the host placed in IN. -/
structure InputIs (s : State) (inp : List Byte) : Prop where
  length : inp.length = s.inLen.toNat
  stands : StandsAt s.inBuf 0 inp

/-- The byte of IN behind those already taken. -/
theorem InputIs.next {s : State} {done rest : List Byte} {b : Byte} {i : Nat} (h : InputIs s (done ++ b :: rest))
    (hi : i = done.length) : s.inBuf.read i = some b := by
  rw [hi, ← Nat.zero_add done.length]
  exact (standsAt_cons.1 (standsAt_append.1 h.stands).2).1

theorem InputIs.congr {s t : State} {inp : List Byte} (h : InputIs s inp) (hl : t.inLen = s.inLen)
    (hb : t.inBuf = s.inBuf) : InputIs t inp :=
  ⟨by rw [hl, h.length], by rw [hb]; exact h.stands⟩

theorem exists_input {s : State} (h : Loaded s) : ∃ inp, InputIs s inp := by
  refine ⟨(List.range s.inLen.toNat).map (inByte s), by simp, fun k hk => ?_⟩
  have hk' : k < s.inLen.toNat := by simpa using hk
  obtain ⟨y, hy⟩ := Option.isSome_iff_exists.1 (h k hk')
  simp [hk', inByte, hy]

/-! ### Command issue and CLR -/

/-- The state CLR leaves in the run of a command issued in `s`. -/
def clearedState (c : Byte) (s : State) : State :=
  { s with cmd := none, op := c, phase := 0x10, work := clearWork s.work, outLen := 0 }

/-- CLR leaves the frequency table empty (R103). -/
theorem freqOf_clearWork (w : Work) (b : Byte) : freqOf (clearWork w) b = 0 := by
  simp [freqOf, clearWork, Work.freqAt]

/-- CLR leaves every code absent (R103). -/
theorem codeAt_clearWork (w : Work) (b : Byte) : (clearWork w).codeAt b = none := by
  simp [clearWork, Work.codeAt]

/-- A command that passes the prechecks runs CLR (R100, R103). -/
theorem issued_reaches {s : State} {i : Instr} (hi : i.opClass = .host) (h : Issued (opcode i) s) (hok : s.inOk = 1)
    (hl : s.inLen.toNat ≤ s.maxInLen.val) (busy : (afterClr (clearedState (opcode i) s)).phase ≠ 0x00) :
    Reaches s (afterClr (clearedState (opcode i) s)) := by
  have hne : s.inOk ≠ 0 := by rw [hok]; decide
  have h1 : Reaches s { consume .cmd s with op := opcode i, phase := 0x10 } :=
    .single ((step_of_issued h hi).trans (issue_starts (s := consume .cmd s) hne hl))
      (show (0x10 : Byte) ≠ 0x00 by decide)
  exact h1.trans (reaches_of_ok (s := { consume .cmd s with op := opcode i, phase := 0x10 }) (i := .clr)
    (k := afterClr) (x := 0x10) h.noCall rfl rfl rfl rfl busy)

/-- A command that fails a precheck fails (R100). -/
theorem issued_fails {s : State} {i : Instr} (hi : i.opClass = .host) (h : Issued (opcode i) s)
    (hbad : s.inOk = 0 ∨ s.maxInLen.val < s.inLen.toNat) : Fails s := by
  have hs := step_of_issued h hi
  by_cases h0 : s.inOk = 0
  · exact ⟨_, (Reaches.refl s).completesIn
      (hs.trans (issue_notOk (s := consume .cmd s) h0)) rfl, statusFail_abort ..⟩
  · exact ⟨_, (Reaches.refl s).completesIn
      (hs.trans (issue_tooLong (s := consume .cmd s) h0 (hbad.resolve_left h0))) rfl, statusFail_abort ..⟩

/-! ### FSCAN -/

theorem setPhase_self {s : State} {p : Byte} (h : s.phase = p) : s.setPhase p = s := by
  subst h
  rfl

/-- FACC counts its byte (R104). -/
theorem facc_eq {s : State} {b : Byte} (hi : s.work.iptr.toNat < s.inLen.toNat)
    (hb : s.inBuf.read s.work.iptr.toNat = some b) (hf : freqOf s.work b + 1 < 2 ^ 64) :
    facc s = .ok () (s.setWork (s.work.setFreq b (BitVec.ofNat 64 (freqOf s.work b + 1)))) := by
  rw [facc, getIn_of_read hi hb, Res.bind_ok]
  exact congrArg (Res.bind · _) (store_fits hf)

theorem freqOf_setFreq (w : Work) (b c : Byte) {n : Nat} (hn : n < 2 ^ 64) :
    freqOf (w.setFreq b (BitVec.ofNat 64 n)) c = if c = b then n else freqOf w c := by
  split
  · next h => rw [h, freqOf, Work.freqAt_setFreq_same, BitVec.toNat_ofNat, Nat.mod_eq_of_lt hn]
  · next h => rw [freqOf, Work.freqAt_setFreq_ne _ _ h]; rfl

/-- FSCAN counts the bytes of IN that are still to come (R105). -/
theorem fscan_reaches {s : State} {done rest : List Byte} (hsub : s.sub = none) (hp : s.phase = 0x11)
    (hne : rest ≠ []) (hin : InputIs s (done ++ rest)) (hi : s.work.iptr.toNat = done.length)
    (hf : ∀ b, freqOf s.work b = done.count b) :
    ∃ w, Reaches s (leafScan 0 (s.setWork w)) ∧ w = { s.work with freq := w.freq, iptr := w.iptr } ∧
      ∀ b, freqOf w b = (done ++ rest).count b := by
  induction rest generalizing s done with
  | nil => exact absurd rfl hne
  | cons b rest ih =>
    have hlen := hin.length
    rw [List.length_append, List.length_cons] at hlen
    have hlt := s.inLen.isLt
    have hcount : freqOf s.work b + 1 < 2 ^ 64 := by
      have := List.count_le_length (a := b) (l := done)
      rw [hf]
      omega
    have hx := facc_eq (by omega) (hin.next hi) hcount
    set w1 := s.work.setFreq b (BitVec.ofNat 64 (freqOf s.work b + 1)) with hw1
    set w2 := w1.setIptr (s.work.iptr + 1) with hw2
    have hf2 : ∀ c, freqOf w2 c = (done ++ [b]).count c := by
      intro c
      have : freqOf w2 c = if c = b then freqOf s.work b + 1 else freqOf s.work c := freqOf_setFreq _ _ _ hcount
      rw [this, List.count_append, List.count_singleton, hf, hf]
      by_cases hc : c = b
      · simp [hc]
      · simp [hc, Ne.symm hc]
    have hi2 : w2.iptr.toNat = (done ++ [b]).length := by
      rw [hw2, Work.setIptr_iptr, iptr_add_one (by omega), hi, List.length_append, List.length_singleton]
    by_cases hr : rest = []
    · subst hr
      have hafter : afterFacc (s.setWork w1) = leafScan 0 (s.setWork w2) :=
        afterFacc_last (s := s.setWork w1) (by change s.work.iptr.toNat + 1 = s.inLen.toNat; simp at hlen; omega)
      refine ⟨w2, ?_, rfl, hf2⟩
      rw [← hafter]
      refine reaches_of_ok (i := .facc) hsub hp rfl rfl hx ?_
      rw [hafter]
      exact leafScan_busy _ _
    · have hpos := List.length_pos_iff.2 hr
      have hafter : afterFacc (s.setWork w1) = s.setWork w2 := by
        rw [afterFacc_more (s := s.setWork w1) (by change s.work.iptr.toNat + 1 < s.inLen.toNat; omega)]
        exact setPhase_self (s := s.setWork w2) hp
      have hstep : Reaches s (s.setWork w2) := by
        rw [← hafter]
        exact reaches_of_ok (i := .facc) hsub hp rfl rfl hx
          (by rw [hafter, State.setWork_phase, hp]; decide)
      have happ : done ++ b :: rest = (done ++ [b]) ++ rest := by simp
      rw [happ] at hin ⊢
      obtain ⟨w, hw, hwo, hwf⟩ := ih (s := s.setWork w2) hsub hp hr (hin.congr rfl rfl) hi2 hf2
      exact ⟨w, hstep.trans hw, by rw [hwo]; rfl, hwf⟩

/-! ### PAYLOAD -/

/-- The payload of an input under a code table. -/
def payloadOf (code : Byte → BitString) (inp : List Byte) : BitString := inp.flatMap code

/-- PUSHC pushes the code of its byte and moves on, or OUT is too small (R58, R176, R180). -/
theorem pushc_reaches {s : State} {base : Nat} {bits code : BitString} {b : Byte} (hsub : s.sub = none)
    (hp : s.phase = 0x1A) (hi : s.work.iptr.toNat < s.inLen.toNat) (hb : s.inBuf.read s.work.iptr.toNat = some b)
    (hcode : s.work.codeAt b = some code) (h : WriterHolds s base bits) (hw : bits.length + code.length < 2 ^ 64) :
    (∃ t, Reaches s t ∧ t.phase = (if s.work.iptr.toNat + 1 < s.inLen.toNat then 0x1A else 0x1B) ∧ WriterRun s t ∧
      t.work.iptr.toNat = s.work.iptr.toNat + 1 ∧ WriterHolds t base (bits ++ code)) ∨
    (Fails s ∧ s.outCap.toNat < base + (bits.length + code.length) / 8) := by
  have hx : pushc s = forEach code pushBit s := by
    rw [pushc, getIn_of_read hi hb, Res.bind_ok, Work.cbits, hcode]
  obtain ⟨t, ht, hrun, hit, hwr⟩ | ⟨hfull, u, hu⟩ := pushBits_cases h code hw
  · have hsucc : t.work.iptr.toNat + 1 ≤ t.inLen.toNat := by
      rw [hit, hrun.inLen]
      exact hi
    have hafter := afterPushc_eq hsucc
    have hiptr := iptr_add_one hsucc
    rw [hit, hrun.inLen] at hafter
    rw [hit] at hiptr
    refine .inl ⟨_, reaches_of_ok (i := .pushc) hsub hp rfl rfl (hx.trans ht) ?_, ?_,
      hrun.trans ?_, ?_, ?_⟩
    · rw [hafter, State.setPhase_phase]
      split <;> decide
    · rw [hafter, State.setPhase_phase]
    · rw [hafter]
      exact ⟨rfl, rfl, rfl, rfl, rfl, rfl, onlyAppended_refl t⟩
    · rw [hafter]
      exact hiptr
    · rw [hafter]
      exact ⟨hwr.count, hwr.held, hwr.appended, hwr.full, hwr.rest⟩
  · exact .inr ⟨fails_of_raise (i := .pushc) hsub hp rfl rfl (hx.trans hu), hfull⟩

/-- PAYLOAD pushes the codes of the bytes of IN that are still to come, or OUT is too small (R58, R180). -/
theorem payload_cases {s : State} {base : Nat} {bits : BitString} {done rest : List Byte} {code : Byte → BitString}
    (hsub : s.sub = none) (hp : s.phase = 0x1A) (hne : rest ≠ []) (hin : InputIs s (done ++ rest))
    (hi : s.work.iptr.toNat = done.length) (hcode : ∀ b ∈ rest, s.work.codeAt b = some (code b))
    (h : WriterHolds s base bits) (hw : bits.length + (payloadOf code rest).length < 2 ^ 64) :
    (∃ t, Reaches s t ∧ t.phase = 0x1B ∧ WriterRun s t ∧ WriterHolds t base (bits ++ payloadOf code rest)) ∨
    (Fails s ∧ s.outCap.toNat < base + (bits.length + (payloadOf code rest).length) / 8) := by
  induction rest generalizing s bits done with
  | nil => exact absurd rfl hne
  | cons b rest ih =>
    have hlen := hin.length
    rw [List.length_append, List.length_cons] at hlen
    have hpl : payloadOf code (b :: rest) = code b ++ payloadOf code rest := List.flatMap_cons
    rw [hpl, List.length_append] at hw ⊢
    obtain ⟨t, ht, htp, hrun, hit, hwr⟩ | ⟨hf, hc⟩ :=
      pushc_reaches hsub hp (by omega) (hin.next hi) (hcode b List.mem_cons_self) h (by omega)
    · by_cases hr : rest = []
      · subst hr
        rw [if_neg (by simp only [List.length_nil] at hlen; omega)] at htp
        exact .inl ⟨t, ht, htp, hrun, by simpa [payloadOf] using hwr⟩
      · have hpos := List.length_pos_iff.2 hr
        rw [if_pos (by omega)] at htp
        have happ : done ++ b :: rest = (done ++ [b]) ++ rest := by simp
        have hct : ∀ c ∈ rest, t.work.codeAt c = some (code c) := fun c hc => by
          rw [hrun.work]
          exact hcode c (List.mem_cons_of_mem _ hc)
        rw [happ] at hin
        have := ih (hrun.sub.trans hsub) htp hr (hin.congr hrun.inLen hrun.inBuf)
          (by rw [hit, hi, List.length_append, List.length_singleton]) hct hwr (by rw [List.length_append]; omega)
        rw [List.append_assoc, List.length_append, Nat.add_assoc, hrun.outCap] at this
        exact this.imp (fun ⟨x, hx, hxp, hxr, hxw⟩ => ⟨x, ht.trans hx, hxp, hrun.trans hxr, hxw⟩)
          fun ⟨hf, hc⟩ => ⟨ht.fails hf, hc⟩
    · exact .inr ⟨hf, by omega⟩

end Sys2Proof.Proofs

namespace Sys2Proof.Proofs

open Sys2Proof.Machine Sys2Proof.Safety Sys2Proof.Reference

/-! ### The artifact of an input -/

/-- Summing over the Symbols with their counts is summing over the bytes. -/
theorem sum_count_mul (inp : List Byte) (g : Byte → Nat) :
    (symbols.map fun b => inp.count b * g b).sum = (inp.map g).sum := by
  have h1 : (symbols.map fun b => inp.count b * g b).sum = ∑ b : Byte, inp.count b * g b := by
    rw [← List.sum_toFinset _ symbols_nodup]
    exact Finset.sum_congr (Finset.eq_univ_iff_forall.2 fun b => List.mem_toFinset.2 (mem_symbols b)) fun _ _ => rfl
  rw [h1, Finset.sum_list_map_count]
  simp only [smul_eq_mul]
  refine (Finset.sum_subset (Finset.subset_univ _) fun b _ hb => ?_).symm
  rw [List.count_eq_zero_of_not_mem (by simpa using hb), Nat.zero_mul]

theorem sum_count (inp : List Byte) : (symbols.map fun b => inp.count b).sum = inp.length := by
  simpa using sum_count_mul inp fun _ => 1

theorem usedSyms_count_ne_nil {inp : List Byte} (h : inp ≠ []) : usedSyms (fun b => inp.count b) ≠ [] := by
  obtain ⟨b, inp, rfl⟩ := List.exists_cons_of_ne_nil h
  refine List.ne_nil_of_mem (a := b) (mem_usedSyms.2 ?_)
  simp

/-- `T` is the tree of the input `inp`, with node `r` as its root. -/
structure TreeOf (inp : List Byte) (r : NodeIx) (T : HTree) : Prop where
  built : huffForest (fun b => inp.count b) = [(r, T)]
  syms : ∀ b ∈ inp, b ∈ T.syms
  size : T.syms.length ≤ 256

/-- Every non-empty input has a tree (R140, R147). -/
theorem exists_treeOf {inp : List Byte} (h : inp ≠ []) : ∃ r T, TreeOf inp r T := by
  obtain ⟨⟨r, T⟩, hT, hs, -⟩ := huffForest_spec (usedSyms_count_ne_nil h)
  refine ⟨r, T, hT, fun b hb => hs.mem_iff.2 (mem_usedSyms.2 (List.count_pos_iff.2 hb).ne'), ?_⟩
  rw [hs.length_eq]
  exact usedSyms_length_le _

/-- The code of a Symbol, no bits where it has none. -/
def HTree.codeD (T : HTree) (b : Byte) : BitString := (T.code b).getD []

theorem TreeOf.code {inp : List Byte} {r : NodeIx} {T : HTree} (h : TreeOf inp r T) {b : Byte} (hb : b ∈ inp) :
    T.code b = some (T.codeD b) := by
  obtain ⟨p, hp⟩ := HTree.code_isSome (h.syms b hb)
  rw [HTree.codeD, hp]
  rfl

theorem TreeOf.codeD_length {inp : List Byte} {r : NodeIx} {T : HTree} (h : TreeOf inp r T) {b : Byte}
    (hb : b ∈ inp) : 1 ≤ (T.codeD b).length ∧ (T.codeD b).length ≤ 255 := HTree.code_length (h.code hb) h.size

/-- One to 255 payload bits for each input byte (R9, R85). -/
theorem TreeOf.payload_length {inp : List Byte} {r : NodeIx} {T : HTree} (h : TreeOf inp r T) :
    inp.length ≤ (payloadOf T.codeD inp).length ∧ (payloadOf T.codeD inp).length ≤ 255 * inp.length := by
  have hl : ∀ b ∈ inp, 1 ≤ (T.codeD b).length ∧ (T.codeD b).length ≤ 255 := fun b hb => h.codeD_length hb
  clear h
  induction inp with
  | nil => simp [payloadOf]
  | cons b inp ih =>
    have hb := hl b List.mem_cons_self
    have := ih fun c hc => hl c (List.mem_cons_of_mem _ hc)
    simp only [payloadOf, List.flatMap_cons, List.length_append, List.length_cons] at this ⊢
    omega

/-- `len` bytes of a buffer are the artifact with these frequencies and payload bits (R80 to R85). -/
structure Artifact (m : Memory) (len : Nat) (freq : Byte → Nat) (bits : BitString) : Prop where
  length : len = 13 + 9 * distinct freq + (bits.length + 7) / 8
  header : StandsAt m 0 (headerBytes freq bits.length)
  payload : ∀ k, k < 8 * ((bits.length + 7) / 8) →
    ∃ y, m.read (13 + 9 * distinct freq + k / 8) = some y ∧ payloadBit y k = (bits[k]?).getD 0

/-! ### ENCODE -/

/-- HSER's total is the number of payload bits (R85, R193). -/
theorem bitSum_eq_payload {w : Work} {inp : List Byte} {T : HTree} (hf : ∀ b, freqOf w b = inp.count b)
    (hc : ∀ b, w.codeAt b = T.code b) : bitSum w = (payloadOf T.codeD inp).length := by
  have hlen : ∀ b, w.clen b = (T.codeD b).length := fun b => by
    rw [Work.clen, hc, HTree.codeD]
    cases T.code b <;> rfl
  have hsum : bitSum w = (symbols.map fun b => freqOf w b * w.clen b).sum := bitSum_eq w
  simp only [hsum, hlen, hf, sum_count_mul, payloadOf, List.length_flatMap]

/-- A running ENCODE whose tables are those of its input, with nothing written yet. -/
structure TablesReady (s : State) (inp : List Byte) (T : HTree) : Prop where
  sub : s.sub = none
  op : s.op = 0x01
  outLen : s.outLen = 0
  input : InputIs s inp
  freq : ∀ b, freqOf s.work b = inp.count b
  code : ∀ b, s.work.codeAt b = T.code b
  acc : s.work.acc = 0
  held : s.work.held = 0
  wbits : s.work.wbits = 0

/-- The bytes of OUT an input needs. -/
def neededRoom (inp : List Byte) (T : HTree) : Nat :=
  13 + 9 * distinct (fun b => inp.count b) + ((payloadOf T.codeD inp).length + 7) / 8

/-- ENCODE ends in `t` with the artifact of `inp` in OUT (R101). -/
structure EncodedTo (inp : List Byte) (T : HTree) (t : State) : Prop where
  status : t.status = endStatus 0 0x01
  artifact : Artifact t.outBuf t.outLen.toNat (fun b => inp.count b) (payloadOf T.codeD inp)

/-- FIN with the whole payload taken in: the artifact is complete, or OUT is too small (R177, R106). -/
theorem fin_completes {s : State} {inp : List Byte} {T : HTree} (hsub : s.sub = none) (hop : s.op = 0x01)
    (hp : s.phase = 0x1B) (hbits : s.work.wbits = s.work.tbits)
    (hh : StandsAt s.outBuf 0 (headerBytes (fun b => inp.count b) (payloadOf T.codeD inp).length))
    (hlen : 13 + 9 * distinct (fun b => inp.count b) ≤ s.outLen.toNat)
    (hw : WriterHolds s (13 + 9 * distinct fun b => inp.count b) (payloadOf T.codeD inp)) :
    (∃ t, CompletesIn s t ∧ EncodedTo inp T t) ∨ (Fails s ∧ s.outCap.toNat < neededRoom inp T) := by
  obtain ⟨t, ht, hout, honly, hl, hpay⟩ | ⟨hfull, u, hu⟩ := fin_cases hw hbits
  · have hgo : Reaches s (gotoEnd 0 t) :=
      reaches_of_ok (i := .fin) (k := afterFin) hsub hp rfl rfl ht (show (0x1F : Byte) ≠ 0x00 by decide)
    refine .inl ⟨complete 0 (gotoEnd 0 t), hgo.completesIn_trans (completesIn_end (hout.sub.trans hsub)),
      ?_, hl, ?_, hpay⟩
    · rw [complete_status, gotoEnd_op, hout.op, hop]
    · intro k hk
      rw [headerBytes_length] at hk
      exact (honly.2 _ (.inl (by omega))).trans (hh k (by rwa [headerBytes_length]))
  · exact .inr ⟨fails_of_raise (i := .fin) hsub hp rfl rfl hu, hfull⟩

/-- A running ENCODE behind HSER: the header stands in OUT and the writer is empty (R107, R191). -/
structure HeaderWritten (s : State) (inp : List Byte) (T : HTree) : Prop where
  sub : s.sub = none
  op : s.op = 0x01
  phase : s.phase = 0x1A
  input : InputIs s inp
  iptr : s.work.iptr.toNat = 0
  code : ∀ b, s.work.codeAt b = T.code b
  total : s.work.tbits.toNat = (payloadOf T.codeD inp).length
  header : StandsAt s.outBuf 0 (headerBytes (fun b => inp.count b) (payloadOf T.codeD inp).length)
  writer : WriterHolds s (13 + 9 * distinct fun b => inp.count b) []

/-- HSER writes the header, or OUT is too small (R191, R58). -/
theorem encode_header {s : State} {inp : List Byte} {r : NodeIx} {T : HTree} (h : TablesReady s inp T)
    (hp : s.phase = 0x18) (hT : TreeOf inp r T) (hne : inp ≠ []) (hmax : inp.length ≤ 2 ^ 56) :
    (∃ t, Reaches s t ∧ HeaderWritten t inp T ∧ t.outCap = s.outCap) ∨
    (Fails s ∧ s.outCap.toNat < neededRoom inp T) := by
  have hb := bitSum_eq_payload h.freq h.code
  have hpos := List.length_pos_iff.2 hne
  have hpl := hT.payload_length
  have hfreq : freqOf s.work = fun b => inp.count b := funext h.freq
  obtain ⟨t, ht, happ⟩ | ⟨hfull, u, hu⟩ :=
    hser_cases (s := s) (by rw [hb]; omega) (by rw [hb]; omega) (by rw [h.outLen]; exact Nat.zero_le _)
  · rw [hb, hfreq] at happ
    have hout := happ.sameOutside
    set v := (t.setWork (((headerWork s.work).setScan 256).setIptr 0)).setPhase 0x1A
    have hafter : afterHser (t.setWork ((headerWork s.work).setScan 256)) = v :=
      if_pos (by rw [State.setWork_inLen, hout.inLen]; exact h.input.length ▸ hpos)
    have hlen : t.outLen.toNat = 13 + 9 * distinct fun b => inp.count b := by
      rw [happ.len, headerBytes_length, State.setWork_outLen, h.outLen]
      exact Nat.zero_add _
    refine .inl ⟨v, ?_, ⟨hout.sub.trans h.sub, hout.op.trans h.op, rfl, h.input.congr hout.inLen hout.inBuf, rfl,
      h.code, ?_, fun k hk => ?_, ?_⟩, hout.outCap⟩
    · rw [← hafter]
      exact reaches_of_ok (i := .hser) h.sub hp rfl rfl ht (by rw [hafter]; exact (by decide : (0x1A : Byte) ≠ 0x00))
    · change (BitVec.ofNat 64 (bitSum s.work)).toNat = _
      rw [BitVec.toNat_ofNat, hb, Nat.mod_eq_of_lt (by omega)]
    · have := happ.new k hk
      rwa [State.setWork_outLen, h.outLen] at this
    · exact ⟨congrArg BitVec.toNat h.wbits, congrArg BitVec.toNat h.held, hlen,
        fun k hk => absurd hk (Nat.not_lt_zero k), congrArg BitVec.toNat h.acc⟩
  · refine .inr ⟨fails_of_raise (i := .hser) h.sub hp rfl rfl hu, ?_⟩
    rw [h.outLen, hfreq] at hfull
    change s.outCap.toNat < 0 + _ at hfull
    unfold neededRoom
    omega

/-- PAYLOAD and FIN complete the artifact, or OUT is too small (R101, R58). -/
theorem encode_payload {s : State} {inp : List Byte} {r : NodeIx} {T : HTree} (h : HeaderWritten s inp T)
    (hT : TreeOf inp r T) (hne : inp ≠ []) (hmax : inp.length ≤ 2 ^ 56) :
    (∃ t, CompletesIn s t ∧ EncodedTo inp T t) ∨ (Fails s ∧ s.outCap.toNat < neededRoom inp T) := by
  have hpl := hT.payload_length
  obtain ⟨x, hx, hxp, hrun, hxw⟩ | ⟨hf, hc⟩ := payload_cases (done := []) (code := T.codeD) h.sub h.phase hne h.input
    h.iptr (fun b hb => (h.code b).trans (hT.code hb)) h.writer (by simp only [List.length_nil]; omega)
  · rw [List.nil_append] at hxw
    have hbits : x.work.wbits = x.work.tbits := BitVec.eq_of_toNat_eq (by
      rw [hxw.count, hrun.work]
      exact h.total.symm)
    have hhead : StandsAt x.outBuf 0 (headerBytes (fun b => inp.count b) (payloadOf T.codeD inp).length) := fun k hk =>
      (hrun.only.2 _ (.inl (by
        rw [headerBytes_length] at hk
        rw [h.writer.appended]
        exact (Nat.zero_add k).trans_lt hk))).trans (h.header k hk)
    rw [← hrun.outCap]
    exact (fin_completes (hrun.sub.trans h.sub) (hrun.op.trans h.op) hxp hbits hhead
      (by rw [hxw.appended]; exact Nat.le_add_right _ _) hxw).imp
      (fun ⟨y, hy, he⟩ => ⟨y, hx.completesIn_trans hy, he⟩) fun ⟨hf, hc⟩ => ⟨hx.fails hf, hc⟩
  · refine .inr ⟨hf, ?_⟩
    simp only [List.length_nil, Nat.zero_add] at hc
    unfold neededRoom
    omega

/-- CLR, FSCAN and BUILD of an ENCODE of a non-empty input make its tree (R101). -/
theorem encode_tree {s : State} {inp : List Byte} {r : NodeIx} {T : HTree} (h : Issued 0x01 s) (hin : InputIs s inp)
    (hok : s.inOk = 1) (hl : s.inLen.toNat ≤ s.maxInLen.val) (hT : TreeOf inp r T) (hne : inp ≠ []) :
    ∃ w, Reaches s (((clearedState 0x01 s).setWork w).setPhase 0x17) ∧ Holds w w.root T ∧
      (∀ b, freqOf w b = inp.count b) ∧ (∀ b, w.codeAt b = none) ∧ w.acc = 0 ∧ w.held = 0 ∧ w.wbits = 0 := by
  have hpos : 0 < s.inLen.toNat := hin.length ▸ List.length_pos_iff.2 hne
  set c := clearedState 0x01 s
  set f := (c.setWork (c.work.setIptr 0)).setPhase 0x11
  have hclr : afterClr c = f := (if_pos rfl).trans (if_pos hpos)
  have h1 : Reaches s f := by
    rw [← hclr]
    refine issued_reaches (i := .encode) rfl h hok hl ?_
    change (afterClr c).phase ≠ 0x00
    rw [hclr]
    exact (by decide : (0x11 : Byte) ≠ 0x00)
  obtain ⟨w, hw, hwo, hwf⟩ := fscan_reaches (s := f) (done := []) h.noCall rfl hne (hin.congr rfl rfl) rfl
    (freqOf_clearWork s.work)
  rw [List.nil_append] at hwf
  have hfreq : freqOf w = fun b => inp.count b := funext hwf
  obtain ⟨w', hw', hbo, hroot, hnil, hholds⟩ := build_reaches (s := f.setWork w) (r := r) (T := T) h.noCall
    (by rw [State.setWork_work, hwo]; rfl) (by rw [State.setWork_work, hwo]; rfl) (by rw [State.setWork_work, hwo]; rfl)
    (by rw [State.setWork_work, hfreq]; exact usedSyms_count_ne_nil hne)
    (by rw [State.setWork_work, hfreq, sum_count, hin.length]; exact s.inLen.isLt)
    (by rw [State.setWork_work, hfreq]; exact hT.built)
  rw [State.setWork_work] at hbo
  rw [State.setWork_setWork] at hw'
  have hafter : afterRoot (f.setWork w') = (c.setWork w').setPhase 0x17 :=
    (if_pos rfl).trans (if_neg (by rw [State.setWork_work, hroot]; exact hnil))
  rw [hafter] at hw'
  have hclear : ∀ b, w'.codeAt b = none := by
    rw [hbo, hwo]
    exact codeAt_clearWork s.work
  have hwriter : w'.acc = 0 ∧ w'.held = 0 ∧ w'.wbits = 0 := by
    rw [hbo, hwo]
    exact ⟨rfl, rfl, rfl⟩
  exact ⟨w', h1.trans (hw.trans hw'), hroot.symm ▸ hholds, fun b => (congrFun hbo.freqOf b).trans (hwf b),
    hclear, hwriter⟩

/-- CLR to CGEN of an ENCODE of a non-empty input make its tables (R101). -/
theorem encode_tables {s : State} {inp : List Byte} {r : NodeIx} {T : HTree} (h : Issued 0x01 s) (hin : InputIs s inp)
    (hok : s.inOk = 1) (hl : s.inLen.toNat ≤ s.maxInLen.val) (hT : TreeOf inp r T) (hne : inp ≠ []) :
    ∃ t, Reaches s t ∧ t.phase = 0x18 ∧ TablesReady t inp T ∧ t.outCap = s.outCap := by
  obtain ⟨w, hw, hholds, hf, hnone, hacc, hheld, hwbits⟩ := encode_tree h hin hok hl hT hne
  set g := ((clearedState 0x01 s).setWork w).setPhase 0x17
  obtain ⟨w', hw', hco, hcode⟩ := cgen_codes (s := g) hholds hT.size
  have hcodes : ∀ b, w'.codeAt b = T.code b := fun b => by
    rw [hcode, show g.work.codeAt b = none from hnone b]
    cases T.code b <;> rfl
  have hrest : (∀ b, freqOf w' b = inp.count b) ∧ w'.acc = 0 ∧ w'.held = 0 ∧ w'.wbits = 0 := by
    rw [hco]
    exact ⟨hf, hacc, hheld, hwbits⟩
  obtain ⟨hfreq, hacc', hheld', hwbits'⟩ := hrest
  refine ⟨(g.setWork w').setPhase 0x18, hw.trans (reaches_of_ok (i := .cgen) (k := afterCgen) h.noCall rfl rfl rfl hw'
    (show (0x18 : Byte) ≠ 0x00 by decide)), rfl,
    ⟨h.noCall, rfl, rfl, hin.congr rfl rfl, hfreq, hcodes, hacc', hheld', hwbits'⟩, rfl⟩

/-- ENCODE of a non-empty legal input writes its artifact, or OUT is too small and ENCODE fails (R101, R58). -/
theorem encode_cases {s : State} {inp : List Byte} {r : NodeIx} {T : HTree} (h : Issued 0x01 s) (hin : InputIs s inp)
    (hok : s.inOk = 1) (hl : s.inLen.toNat ≤ s.maxInLen.val) (hT : TreeOf inp r T) (hne : inp ≠ []) :
    (∃ t, CompletesIn s t ∧ EncodedTo inp T t) ∨ (Fails s ∧ s.outCap.toNat < neededRoom inp T) := by
  obtain ⟨t, ht, hp, hready, hcap⟩ := encode_tables h hin hok hl hT hne
  have hmax : inp.length ≤ 2 ^ 56 := by
    have := s.maxInLen.isLt
    rw [hin.length]
    omega
  rw [← hcap]
  obtain ⟨u, hu, hwritten, hcap'⟩ | ⟨hf, hc⟩ := encode_header hready hp hT hne hmax
  · rw [← hcap']
    exact (encode_payload hwritten hT hne hmax).imp
      (fun ⟨v, hv, he⟩ => ⟨v, (ht.trans hu).completesIn_trans hv, he⟩) fun ⟨hf, hc⟩ => ⟨(ht.trans hu).fails hf, hc⟩
  · exact .inr ⟨ht.fails hf, hc⟩

/-- With nothing to count, BUILD goes to ROOT at once, and ROOT finds no tree (R139, R142). -/
theorem encode_empty_root {s : State} (hsub : s.sub = none) (hop : s.op = 0x01) (hf : ∀ b, s.work.freqAt b = 0)
    (hs : s.work.hsize = 0) :
    ∃ t, Reaches (leafScan 0 s) (gotoEnd 2 t) ∧ t.sub = none ∧ t.op = 0x01 ∧ t.outLen = s.outLen := by
  set u := (s.setWork (s.work.setScan 256)).setPhase 0x16
  have hscan : leafScan 0 s = u := by
    rw [leafScan_none (nextSymbol_eq_none.2 fun b _ => hf b), if_neg (by rw [hs]; decide)]
  have hroot : root u = .ok () (u.setWork (u.work.setRoot Config.nil)) := if_pos hs
  have hafter : afterRoot (u.setWork (u.work.setRoot Config.nil)) = gotoEnd 2 (u.setWork (u.work.setRoot Config.nil)) :=
    (if_pos hop).trans (if_pos rfl)
  refine ⟨u.setWork (u.work.setRoot Config.nil), ?_, hsub, hop, rfl⟩
  rw [hscan, ← hafter]
  exact reaches_of_ok (i := .root) hsub rfl rfl rfl hroot (afterRoot_busy _)

/-- ENCODE of the empty input ends empty (R101, R239). -/
theorem encode_empty {s : State} (h : Issued 0x01 s) (hok : s.inOk = 1) (h0 : s.inLen = 0) :
    ∃ t, CompletesIn s t ∧ t.status = endStatus 2 0x01 ∧ t.outLen = 0 := by
  set c := clearedState 0x01 s
  have hnil : ¬ 0 < c.inLen.toNat := by
    change ¬ 0 < s.inLen.toNat
    rw [h0]
    decide
  have hclr : afterClr c = leafScan 0 (c.setWork (c.work.setIptr 0)) := (if_pos rfl).trans (if_neg hnil)
  have h1 : Reaches s (leafScan 0 (c.setWork (c.work.setIptr 0))) := by
    rw [← hclr]
    refine issued_reaches (i := .encode) rfl h hok (by rw [h0]; exact Nat.zero_le _) ?_
    change (afterClr c).phase ≠ 0x00
    rw [hclr]
    exact leafScan_busy _ _
  obtain ⟨t, ht, hsub, hop, hout⟩ := encode_empty_root (s := c.setWork (c.work.setIptr 0)) h.noCall rfl
    (fun b => BitVec.eq_of_toNat_eq (freqOf_clearWork s.work b)) rfl
  refine ⟨_, (h1.trans ht).completesIn_trans (completesIn_end hsub), ?_, hout⟩
  rw [complete_status, gotoEnd_op, hop]

end Sys2Proof.Proofs

namespace Sys2Proof.Proofs

open Sys2Proof.Machine Sys2Proof.Safety Sys2Proof.Reference

/-! ### ENCODE with room succeeds -/

/-- The longest header and 255 bits for each byte are room enough (R9, R85). -/
theorem neededRoom_le {inp : List Byte} {r : NodeIx} {T : HTree} (hT : TreeOf inp r T) :
    neededRoom inp T ≤ 13 + 9 * 256 + 32 * inp.length := by
  have := distinct_le fun b => inp.count b
  have := hT.payload_length
  unfold neededRoom
  omega

/-- Settles O57: the artifact of a tree with at most 256 Leaves fits the room, and OUT too small is the only way in
which ENCODE of a legal input can fail. -/
theorem encodeSucceedsWithRoom : Obligations.EncodeSucceedsWithRoom := by
  unfold Obligations.EncodeSucceedsWithRoom
  intro s h hload hok hl hroom
  by_cases h0 : s.inLen = 0
  · obtain ⟨t, ht, hst, -⟩ := encode_empty h hok h0
    exact ⟨t, ht, by rw [hst, statusFail_end], by rw [hst, statusEmpty_end, if_pos h0, if_pos rfl]⟩
  · obtain ⟨inp, hin⟩ := exists_input hload
    have hne : inp ≠ [] := by
      rintro rfl
      exact h0 (BitVec.eq_of_toNat_eq hin.length.symm)
    obtain ⟨r, T, hT⟩ := exists_treeOf hne
    obtain ⟨t, ht, he⟩ | ⟨-, hfull⟩ := encode_cases h hin hok hl hT hne
    · refine ⟨t, ht, by rw [he.status, statusFail_end], ?_⟩
      rw [he.status, statusEmpty_end, if_neg h0]
      rfl
    · have := neededRoom_le hT
      rw [hin.length] at this
      omega

end Sys2Proof.Proofs

namespace Sys2Proof.Proofs

open Sys2Proof.Machine Sys2Proof.Safety Sys2Proof.Reference

/-! ### HPAR -/

/-- `MemRead` gives back what stands in IN least significant byte first (R14, R55). -/
theorem memReadIn_leBytes {n v a : Nat} {s : State} (hl : a + n ≤ s.inLen.toNat)
    (h : StandsAt s.inBuf a (leBytes n v)) : memReadIn n a s = .ok (v % 256 ^ n) s := by
  induction n generalizing v a with
  | zero => simp [memReadIn, Nat.mod_one]
  | succ n ih =>
    obtain ⟨h0, hs⟩ := standsAt_cons.1 h
    rw [memReadIn, getIn_of_read (by omega) h0, Res.bind_ok, ih (by omega) hs, Res.bind_ok, Nat.pow_succ', Nat.mod_mul,
      BitVec.toNat_ofNat, Nat.mod_mod_of_dvd _ (by decide)]

/-- One pair of the header is a table write (R196, R198). -/
theorem getPair_eq {k n : Nat} {b : Byte} {s : State} (hl : 13 + 9 * k ≤ s.inLen.toNat) (hn : n < 2 ^ 64)
    (h : StandsAt s.inBuf (4 + 9 * k) (b :: leBytes 8 n)) :
    getPair k s = .ok () (s.setWork (s.work.setFreq b (BitVec.ofNat 64 n))) := by
  obtain ⟨h0, hs⟩ := standsAt_cons.1 h
  rw [getPair, getIn_of_read (by omega) h0, Res.bind_ok, show 5 + 9 * k = 4 + 9 * k + 1 by omega,
    memReadIn_leBytes (by omega) hs, Res.bind_ok, Nat.mod_eq_of_lt (by norm_num; omega), putWork_eq]

/-- The pairs of some Symbols load their frequencies (R196). -/
theorem getPairs_eq {freq : Byte → Nat} (hfreq : ∀ b, freq b < 2 ^ 64) {bs : List Byte} {j : Nat} {s : State}
    (hl : 4 + 9 * (j + bs.length) ≤ s.inLen.toNat)
    (h : StandsAt s.inBuf (4 + 9 * j) (bs.flatMap fun b => b :: leBytes 8 (freq b))) :
    ∃ w, forEach (List.range' j bs.length) getPair s = .ok () (s.setWork w) ∧ w = { s.work with freq := w.freq } ∧
      ∀ c, freqOf w c = if c ∈ bs then freq c else freqOf s.work c := by
  induction bs generalizing j s with
  | nil => exact ⟨s.work, rfl, rfl, fun c => by simp⟩
  | cons b bs ih =>
    rw [List.length_cons] at hl
    rw [List.flatMap_cons, standsAt_append, List.length_cons, leBytes_length] at h
    have hx := getPair_eq (by omega) (hfreq b) h.1
    set w1 := s.work.setFreq b (BitVec.ofNat 64 (freq b)) with hw1
    obtain ⟨w, hw, hwo, hwf⟩ := ih (j := j + 1) (s := s.setWork w1) (by rw [State.setWork_inLen]; omega) h.2
    refine ⟨w, ?_, by rw [hwo]; rfl, fun c => ?_⟩
    · rw [List.length_cons, List.range'_succ, forEach_cons, hx, Res.bind_ok, hw, State.setWork_setWork]
    · rw [hwf, State.setWork_work, hw1, freqOf_setFreq _ _ _ (hfreq b)]
      by_cases hcb : c = b
      · simp [hcb]
      · simp [hcb]

/-- The bits that the payload bytes of an artifact supply are its payload bits (R199). -/
theorem availBits_exact {n : Nat} (hn : 1 ≤ n) : availBits ((n + 7) / 8) ((n - 1) % 8 + 1) = n := by
  rw [availBits, if_neg (by omega)]
  omega

/-- The four parts of an artifact's header, at their offsets (R80). -/
theorem artifact_header {m : Memory} {len : Nat} {freq : Byte → Nat} {bits : BitString}
    (h : Artifact m len freq bits) :
    StandsAt m 0 (leBytes 4 (distinct freq)) ∧ StandsAt m 4 (pairBytes freq) ∧
    m.read (4 + 9 * distinct freq) = some (BitVec.ofNat 8 ((bits.length - 1) % 8 + 1)) ∧
    StandsAt m (5 + 9 * distinct freq) (leBytes 8 bits.length) := by
  have hh := h.header
  rw [headerBytes, standsAt_append, standsAt_append, standsAt_append, standsAt_cons] at hh
  simp only [List.length_append, leBytes_length, pairBytes_length, List.length_singleton, Nat.zero_add] at hh
  obtain ⟨⟨⟨hcount, hpairs⟩, hvalid, -⟩, htotal⟩ := hh
  exact ⟨hcount, hpairs, hvalid, by rwa [show 5 + 9 * distinct freq = 4 + 9 * distinct freq + 1 by omega]⟩

/-- The pairs of an artifact load its frequency table into an empty one (R196). -/
theorem getPairs_artifact {s : State} {freq : Byte → Nat} {bits : BitString}
    (h : Artifact s.inBuf s.inLen.toNat freq bits) (hfreq : ∀ b, freq b < 2 ^ 64) (hfresh : ∀ b, freqOf s.work b = 0) :
    ∃ w, forEach (List.range (distinct freq)) getPair s = .ok () (s.setWork w) ∧
      w = { s.work with freq := w.freq } ∧ ∀ b, freqOf w b = freq b := by
  have hlen := h.length
  obtain ⟨-, hpairs, -, -⟩ := artifact_header h
  obtain ⟨w, hw, hwo, hwf⟩ := getPairs_eq hfreq (bs := usedSyms freq) (j := 0) (s := s)
    (by change 4 + 9 * (0 + distinct freq) ≤ _; omega) hpairs
  refine ⟨w, by rw [List.range_eq_range']; exact hw, hwo, fun b => ?_⟩
  rw [hwf]
  split
  · rfl
  · next h0 => rw [hfresh, not_not.1 fun hb => h0 (mem_usedSyms.2 hb)]

/-- The registers an artifact's header sets behind the pairs (R196). -/
def parsedWork (w : Work) (n total : Nat) : Work :=
  ((w.setVbits (BitVec.ofNat 8 ((total - 1) % 8 + 1))).setTbits (BitVec.ofNat 64 total)).setPbase
    (BitVec.ofNat 64 (13 + 9 * n))

/-- The bit counts of an artifact pass HPAR's checks (R199, R200). -/
theorem parseBits_artifact {s : State} {freq : Byte → Nat} {bits : BitString}
    (h : Artifact s.inBuf s.inLen.toNat freq bits) (hb : 1 ≤ bits.length) (hb' : bits.length < 2 ^ 64) :
    parseBits (distinct freq) s = .ok () (s.setWork (parsedWork s.work (distinct freq) bits.length)) := by
  have hlen := h.length
  obtain ⟨-, -, hvalid, htotal⟩ := artifact_header h
  have hvn : (BitVec.ofNat 8 ((bits.length - 1) % 8 + 1)).toNat = (bits.length - 1) % 8 + 1 := by
    rw [BitVec.toNat_ofNat]
    omega
  have hp : s.inLen.toNat - Config.hdrLen (distinct freq) = (bits.length + 7) / 8 := by unfold Config.hdrLen; omega
  have hread : ∀ w, memReadIn 8 (5 + 9 * distinct freq) (s.setWork w) = .ok bits.length (s.setWork w) := fun w => by
    rw [memReadIn_leBytes (s := s.setWork w) (by rw [State.setWork_inLen]; omega) htotal,
      Nat.mod_eq_of_lt (by norm_num; omega)]
  rw [parseBits, getIn_of_read (by omega) hvalid, Res.bind_ok, putWork_eq, Res.bind_ok, if_neg (by omega), hread,
    Res.bind_ok, putWork_eq, Res.bind_ok, if_neg]
  · rfl
  · simp only [State.setWork_inLen, hp, hvn, availBits_exact hb, Nat.lt_irrefl, not_false_eq_true]

/-- HPAR accepts the header of an artifact and loads its tables (R196). -/
theorem hpar_artifact {s : State} {freq : Byte → Nat} {bits : BitString}
    (h : Artifact s.inBuf s.inLen.toNat freq bits) (hb : 1 ≤ bits.length) (hb' : bits.length < 2 ^ 64)
    (hsum : (symbols.map freq).sum < 2 ^ 64) (hfresh : ∀ b, freqOf s.work b = 0) :
    ∃ w, hpar s = .ok () (s.setWork w) ∧
      w = { s.work with scount := w.scount, freq := w.freq, vbits := w.vbits, tbits := w.tbits, pbase := w.pbase } ∧
      (∀ b, freqOf w b = freq b) ∧ w.tbits.toNat = bits.length ∧ w.pbase.toNat = 13 + 9 * distinct freq := by
  have hd := distinct_le freq
  have hlen := h.length
  have hlt := s.inLen.isLt
  have hfreq : ∀ b, freq b < 2 ^ 64 := fun b =>
    (List.single_le_sum (fun _ _ => Nat.zero_le _) _ (List.mem_map_of_mem (mem_symbols b))).trans_lt hsum
  have hsc : (BitVec.ofNat 32 (distinct freq)).toNat = distinct freq := by rw [BitVec.toNat_ofNat]; omega
  have hsi : (BitVec.ofNat 32 (distinct freq)).toInt = distinct freq := by
    rw [BitVec.toInt_eq_toNat_of_lt (by rw [hsc]; omega), hsc]
  set s1 := s.setWork (s.work.setScount (BitVec.ofNat 32 (distinct freq))) with hs1
  obtain ⟨w, hw, hwo, hwf⟩ := getPairs_artifact (s := s1) h hfreq hfresh
  have hfs : freqSum w < 2 ^ 64 := by
    have : freqSum w = (symbols.map fun b => freqOf w b).sum := freqSum_eq w
    rw [this, funext hwf]
    exact hsum
  have hpp : parsePairs (distinct freq) s1 = .ok () (s.setWork (parsedWork w (distinct freq) bits.length)) := by
    rw [parsePairs, if_neg (by rw [hs1, State.setWork_inLen, Config.hdrLen]; omega), hw, Res.bind_ok,
      if_neg (by rw [State.setWork_work]; omega)]
    exact parseBits_artifact (s := s1.setWork w) h hb hb'
  refine ⟨parsedWork w (distinct freq) bits.length, ?_, by rw [parsedWork, hwo]; rfl, hwf, ?_, ?_⟩
  · rw [hpar, if_neg (by omega), memReadIn_leBytes (by omega) (artifact_header h).1, Res.bind_ok,
      Nat.mod_eq_of_lt (by norm_num; omega), putWork_eq, Res.bind_ok, ← hs1]
    have hcnt : s1.work.scount = BitVec.ofNat 32 (distinct freq) := rfl
    rw [hcnt, hsi, if_neg (by omega), hsc]
    exact hpp
  · rw [parsedWork, Work.setPbase_tbits, Work.setTbits_tbits, BitVec.toNat_ofNat, Nat.mod_eq_of_lt hb']
  · rw [parsedWork, Work.setPbase_pbase, BitVec.toNat_ofNat, Nat.mod_eq_of_lt (by omega)]

/-! ### The decode walk -/

/-- A part of the walk in which the bytes `bs` are emitted: nothing else differs but BIT, RBITS, CURSOR and PHASE. -/
structure Emits (s t : State) (bs : List Byte) : Prop where
  sub : t.sub = s.sub
  op : t.op = s.op
  inLen : t.inLen = s.inLen
  outCap : t.outCap = s.outCap
  inBuf : t.inBuf = s.inBuf
  work : t.work = { s.work with bit := t.work.bit, rbits := t.work.rbits, cursor := t.work.cursor }
  len : t.outLen.toNat = s.outLen.toNat + bs.length
  new : StandsAt t.outBuf s.outLen.toNat bs
  old : ∀ a, a < s.outLen.toNat → t.outBuf.read a = s.outBuf.read a

theorem Emits.trans {s t u : State} {bs cs : List Byte} (h : Emits s t bs) (h' : Emits t u cs) :
    Emits s u (bs ++ cs) where
  sub := h'.sub.trans h.sub
  op := h'.op.trans h.op
  inLen := h'.inLen.trans h.inLen
  outCap := h'.outCap.trans h.outCap
  inBuf := h'.inBuf.trans h.inBuf
  work := by rw [h'.work, h.work]
  len := by rw [h'.len, h.len, List.length_append]; omega
  new := standsAt_append.2
    ⟨fun k hk => (h'.old _ (by rw [h.len]; omega)).trans (h.new k hk), h.len ▸ h'.new⟩
  old := fun a ha => (h'.old a (by rw [h.len]; omega)).trans (h.old a ha)

/-- Writing BIT, RBITS and CURSOR emits nothing. -/
theorem emits_work {s : State} {w : Work}
    (h : w = { s.work with bit := w.bit, rbits := w.rbits, cursor := w.cursor }) : Emits s (s.setWork w) [] :=
  ⟨rfl, rfl, rfl, rfl, rfl, h, rfl, fun k hk => absurd hk (Nat.not_lt_zero k), fun _ _ => rfl⟩

theorem Emits.setPhase {s t : State} {bs : List Byte} (h : Emits s t bs) (p : Byte) : Emits s (t.setPhase p) bs :=
  ⟨h.sub, h.op, h.inLen, h.outCap, h.inBuf, h.work, h.len, h.new, h.old⟩

/-- The walk stands before payload bit `k` of `bits`, or behind the last one (R222). -/
structure OnWalk (s : State) (bits : BitString) (r : NodeIx) (T : HTree) (k : Nat) : Prop where
  sub : s.sub = none
  root : s.work.root = r
  tree : Holds s.work r T
  tbits : s.work.tbits.toNat = bits.length
  rbits : s.work.rbits.toNat = k
  payload : ∀ j, j < bits.length → s.work.pbase.toNat + j / 8 < s.inLen.toNat ∧
    ∃ y, s.inBuf.read (s.work.pbase.toNat + j / 8) = some y ∧ bits[j]? = some (payloadBit y j)
  phase : s.phase = if k < bits.length then 0x1D else 0x21

/-- The state GETB leaves (R216). -/
def fetched (s : State) (b : Bit) : State :=
  (s.setWork (s.work.setBit b (BitVec.ofNat 64 (s.work.rbits.toNat + 1)))).setPhase 0x1E

/-- GETB fetches the next bit, and WALK1 takes its step with it (R216, R222). -/
theorem bit_reaches {s t : State} {bits : BitString} {r : NodeIx} {T : HTree} {k : Nat} {b : Bit} {bs : List Byte}
    (h : OnWalk s bits r T k) (hb : bits[k]? = some b) (ht : walk1 (fetched s b) = .ok () t)
    (hr : t.work.rbits = (fetched s b).work.rbits) (he : Emits (fetched s b) t bs) :
    Reaches s (walkLoop t) ∧ OnWalk (walkLoop t) bits r T (k + 1) ∧ Emits s (walkLoop t) bs := by
  have hk : k < bits.length := (List.getElem?_eq_some_iff.1 hb).1
  obtain ⟨hlt, y, hy, hby⟩ := h.payload k hk
  obtain rfl : b = payloadBit y k := Option.some.inj (hb.symm.trans hby)
  have hbl : bits.length < 2 ^ 64 := h.tbits ▸ s.work.tbits.isLt
  have hrb := h.rbits
  have hget : getb s =
      .ok () (s.setWork (s.work.setBit (payloadBit y k) (BitVec.ofNat 64 (s.work.rbits.toNat + 1)))) := by
    rw [getb, hrb, getIn_of_read hlt hy, Res.bind_ok, store_fits (by omega)]
    rfl
  have h1 : Reaches s (fetched s (payloadBit y k)) :=
    reaches_of_ok (i := .getb) (k := afterGetb) h.sub (h.phase.trans (if_pos hk)) rfl rfl hget
      (show (0x1E : Byte) ≠ 0x00 by decide)
  have hbusy : (walkLoop t).phase ≠ 0x00 := by
    rw [walkLoop_eq, State.setPhase_phase]
    split <;> decide
  have hes : Emits s (walkLoop t) bs := by
    have hfetch : Emits s (fetched s (payloadBit y k)) [] := (emits_work rfl).setPhase 0x1E
    rw [walkLoop_eq]
    exact (hfetch.trans he).setPhase _
  have hrbits : t.work.rbits.toNat = k + 1 := by
    rw [hr, fetched, State.setPhase_work, State.setWork_work, Work.setBit_rbits, hrb, BitVec.toNat_ofNat,
      Nat.mod_eq_of_lt (by omega)]
  have htbits : t.work.tbits.toNat = bits.length := by
    rw [he.work]
    exact h.tbits
  refine ⟨h1.trans (reaches_of_ok (i := .walk1) (k := afterWalk1) h.sub rfl rfl rfl ht hbusy), ?_, hes⟩
  refine ⟨hes.sub.trans h.sub, ?_, ?_, ?_, ?_, ?_, ?_⟩
  · rw [hes.work]
    exact h.root
  · exact h.tree.congr (by rw [hes.work]) (by rw [hes.work])
  · rw [hes.work]
    exact h.tbits
  · rw [walkLoop_eq]
    exact hrbits
  · rw [hes.work, hes.inBuf, hes.inLen]
    exact h.payload
  · rw [walkLoop_eq, State.setPhase_phase, hrbits, htbits]

/-- A byte emitted by WALK1 (R218, R220). -/
theorem emits_setOut {s : State} (c : Byte) (i : NodeIx) (hr : s.outLen.toNat < s.outCap.toNat) :
    Emits s ((s.setOut (s.outBuf.write s.outLen.toNat c) (s.outLen + 1)).setWork (s.work.setCursor i)) [c] where
  sub := rfl
  op := rfl
  inLen := rfl
  outCap := rfl
  inBuf := rfl
  work := rfl
  len := outLen_succ hr
  new := standsAt_cons.2 ⟨Memory.read_write_same _ _ _, fun k hk => absurd hk (Nat.not_lt_zero k)⟩
  old := fun _ ha => Memory.read_write_ne _ _ (Nat.ne_of_lt ha)

/-- The first bit of a path leads to the child that the rest of the path starts from. -/
theorem HTree.path_cons {l r : HTree} {c : Byte} {p : BitString} (h : (HTree.node l r).path c = some p) :
    ∃ b q, p = b :: q ∧ (if b = 0 then l else r).path c = some q := by
  rw [HTree.path] at h
  cases hr : r.path c with
  | some q =>
    rw [hr] at h
    exact ⟨1, q, (Option.some.inj h).symm, by rw [if_neg (by decide)]; exact hr⟩
  | none =>
    rw [hr] at h
    obtain ⟨q, hq, rfl⟩ := Option.map_eq_some_iff.1 h
    exact ⟨0, q, rfl, by rw [if_pos rfl]; exact hq⟩

/-- The child of an Internal node stands for the child of its tree. -/
theorem holds_child {w : Work} {nd : Node} {l r : HTree} (hl : Holds w nd.left l) (hr : Holds w nd.right r) (b : Bit) :
    Holds w (nd.child b) (if b = 0 then l else r) := by
  unfold Node.child
  split
  · exact hl
  · exact hr

/-- Below an Internal root, WALK1 takes the edge of BIT (R218). -/
theorem walk1_internal {s : State} {l r : HTree} (h : Holds s.work s.work.root (.node l r)) : walk1 s = walkEdge s := by
  obtain ⟨-, top, htop, ht, -⟩ := h
  simp only [walk1, getNode, htop, Res.bind_ok, ht]

/-- An edge to an Internal node moves CURSOR (R218). -/
theorem walkEdge_internal {s : State} {here nd : Node} (h : s.work.nodeAt s.work.cursor = some here)
    (hn : s.work.nodeAt (here.child s.work.bit) = some nd) (ht : nd.tag = .internal) :
    walkEdge s = .ok () (s.setWork (s.work.setCursor (here.child s.work.bit))) := by
  have hn' : (s.work.setCursor (here.child s.work.bit)).nodeAt (here.child s.work.bit) = some nd := hn
  simp only [walkEdge, getNode, h, Res.bind_ok, putWork_eq, State.setWork_work, Work.setCursor_cursor, hn', ht]

/-- An edge to a Leaf emits its Symbol and resets CURSOR (R218). -/
theorem walkEdge_leaf {s : State} {here nd : Node} (h : s.work.nodeAt s.work.cursor = some here)
    (hn : s.work.nodeAt (here.child s.work.bit) = some nd) (ht : nd.tag = .leaf)
    (hr : s.outLen.toNat < s.outCap.toNat) :
    walkEdge s = .ok () ((s.setOut (s.outBuf.write s.outLen.toNat nd.sym) (s.outLen + 1)).setWork
      (s.work.setCursor s.work.root)) := by
  have hn' : (s.work.setCursor (here.child s.work.bit)).nodeAt (here.child s.work.bit) = some nd := hn
  simp only [walkEdge, getNode, h, Res.bind_ok, putWork_eq, State.setWork_work, Work.setCursor_cursor, hn', ht]
  rw [putOut_of_room (s := s.setWork (s.work.setCursor (here.child s.work.bit))) hr, Res.bind_ok, rewind, putWork_eq]
  rfl

theorem getElem?_of_drop {bits : BitString} {k : Nat} {b : Bit} {rest : BitString} (h : bits.drop k = b :: rest) :
    bits[k]? = some b ∧ bits.drop (k + 1) = rest := by
  refine ⟨?_, ?_⟩
  · rw [← List.head?_drop, h]
    rfl
  · rw [← List.tail_drop, h]
    rfl

/-- The bits of a path lead CURSOR down to its Leaf, whose Symbol is emitted (R218). -/
theorem walk_path {s : State} {bits p rest : BitString} {r : NodeIx} {l₀ r₀ l' r' : HTree} {k : Nat} {c : Byte}
    (h : OnWalk s bits r (.node l₀ r₀) k) (hc : Holds s.work s.work.cursor (.node l' r'))
    (hp : (HTree.node l' r').path c = some p) (hbits : bits.drop k = p ++ rest)
    (hroom : s.outLen.toNat < s.outCap.toNat) :
    ∃ t, Reaches s t ∧ OnWalk t bits r (.node l₀ r₀) (k + p.length) ∧ Emits s t [c] ∧ t.work.cursor = r := by
  induction p generalizing s k l' r' with
  | nil => exact absurd (HTree.path_node_length_pos hp) (Nat.lt_irrefl 0)
  | cons b q ih =>
    obtain ⟨b', q', hbq, hq⟩ := HTree.path_cons hp
    obtain ⟨rfl, rfl⟩ := List.cons.inj hbq
    obtain ⟨hb, hdrop⟩ := getElem?_of_drop hbits
    obtain ⟨-, here, hhere, -, -, hl, hr⟩ := hc
    have hchild := holds_child hl hr b
    have hroot : Holds (fetched s b).work (fetched s b).work.root (.node l₀ r₀) :=
      (h.root.symm ▸ h.tree : Holds s.work s.work.root _).congr rfl rfl
    have hlen : k + (b :: q).length = k + 1 + q.length := by rw [List.length_cons]; omega
    rw [hlen]
    generalize (if b = 0 then l' else r') = X at hq hchild
    cases X with
    | leaf c' n =>
      obtain ⟨-, nd, hnd, ht, hsym, -⟩ := hchild
      simp only [HTree.path, Option.ite_none_right_eq_some, Option.some.injEq] at hq
      obtain ⟨hcc, rfl⟩ := hq
      have hw := (walk1_internal hroot).trans (walkEdge_leaf (s := fetched s b) hhere hnd ht hroom)
      obtain ⟨h1, h2, h3⟩ := bit_reaches h hb hw rfl (emits_setOut nd.sym _ hroom)
      rw [hsym, ← hcc] at h1 h2 h3
      refine ⟨_, h1, h2, h3, ?_⟩
      rw [walkLoop_eq]
      exact h.root
    | node l'' r'' =>
      obtain ⟨-, nd, hnd, ht, -⟩ := id hchild
      have hw := (walk1_internal hroot).trans (walkEdge_internal (s := fetched s b) hhere hnd ht)
      obtain ⟨h1, h2, h3⟩ := bit_reaches h hb hw rfl (emits_work rfl)
      obtain ⟨t, ht, hon, hem, hcur⟩ := ih h2 (by rw [walkLoop_eq]; exact hchild.congr rfl rfl) hq hdrop
        (by rw [h3.len, h3.outCap]; exact hroom)
      exact ⟨t, h1.trans ht, hon, h3.trans hem, hcur⟩

/-- The bits of a Symbol's code make the walk emit it (R218, R220, R224). -/
theorem walk_code {s : State} {bits p rest : BitString} {r : NodeIx} {T : HTree} {k : Nat} {c : Byte}
    (h : OnWalk s bits r T k) (hc : s.work.cursor = r) (hp : T.code c = some p) (hbits : bits.drop k = p ++ rest)
    (hroom : s.outLen.toNat < s.outCap.toNat) :
    ∃ t, Reaches s t ∧ OnWalk t bits r T (k + p.length) ∧ Emits s t [c] ∧ t.work.cursor = r := by
  cases T with
  | leaf c' n =>
    simp only [HTree.code, Option.ite_none_right_eq_some, Option.some.injEq] at hp
    obtain ⟨rfl, rfl⟩ := hp
    obtain ⟨hb, -⟩ := getElem?_of_drop hbits
    obtain ⟨-, top, htop, ht, rfl, -⟩ := id h.tree
    have hw : walk1 (fetched s 0) = .ok () (((fetched s 0).setOut ((fetched s 0).outBuf.write s.outLen.toNat top.sym)
        (s.outLen + 1)).setWork ((fetched s 0).work.setCursor s.work.cursor)) := by
      have htop' : (fetched s 0).work.nodeAt (fetched s 0).work.root = some top := h.root ▸ htop
      simp only [walk1, getNode, htop', Res.bind_ok, ht]
      exact putOut_of_room hroom
    obtain ⟨h1, h2, h3⟩ := bit_reaches h hb hw rfl (emits_setOut top.sym _ hroom)
    exact ⟨_, h1, h2, h3, by rw [walkLoop_eq]; exact hc⟩
  | node l r' => exact walk_path h (hc ▸ h.tree) hp hbits hroom

/-- The payload of an input makes the walk emit that input (R224). -/
theorem walk_input {s : State} {bits : BitString} {r : NodeIx} {T : HTree} {k : Nat} {inp : List Byte}
    (h : OnWalk s bits r T k) (hc : s.work.cursor = r) (hcode : ∀ b ∈ inp, T.code b = some (T.codeD b))
    (hbits : bits.drop k = payloadOf T.codeD inp) (hroom : s.outLen.toNat + inp.length ≤ s.outCap.toNat) :
    ∃ t, Reaches s t ∧ OnWalk t bits r T (k + (payloadOf T.codeD inp).length) ∧ Emits s t inp ∧ t.work.cursor = r := by
  induction inp generalizing s k with
  | nil => exact ⟨s, .refl s, h, emits_work rfl, hc⟩
  | cons c inp ih =>
    have hpl : payloadOf T.codeD (c :: inp) = T.codeD c ++ payloadOf T.codeD inp := List.flatMap_cons
    rw [hpl] at hbits ⊢
    rw [List.length_cons] at hroom
    obtain ⟨t, ht, hon, hem, hcur⟩ := walk_code h hc (hcode c List.mem_cons_self) hbits (by omega)
    have hdrop : bits.drop (k + (T.codeD c).length) = payloadOf T.codeD inp := by
      rw [← List.drop_drop, hbits, List.drop_left]
    obtain ⟨u, hu, hon', hem', hcur'⟩ := ih hon hcur (fun b hb => hcode b (List.mem_cons_of_mem _ hb)) hdrop
      (by rw [hem.len, hem.outCap, List.length_singleton]; omega)
    rw [List.length_append, ← Nat.add_assoc]
    exact ⟨u, ht.trans hu, hon', hem.trans hem', hcur'⟩

end Sys2Proof.Proofs

namespace Sys2Proof.Proofs

open Sys2Proof.Machine Sys2Proof.Safety Sys2Proof.Reference

/-! ### DECODE -/

/-- DECODE ends in `t` with `inp` as its output (R102). -/
structure DecodedTo (inp : List Byte) (t : State) : Prop where
  status : t.status = endStatus 0 0x02
  length : t.outLen.toNat = inp.length
  output : StandsAt t.outBuf 0 inp

/-- The payload of an artifact in IN, bit by bit from PBASE on. -/
theorem artifact_payload {s : State} {freq : Byte → Nat} {bits : BitString}
    (h : Artifact s.inBuf s.inLen.toNat freq bits) (hpb : s.work.pbase.toNat = 13 + 9 * distinct freq) {j : Nat}
    (hj : j < bits.length) :
    s.work.pbase.toNat + j / 8 < s.inLen.toNat ∧
      ∃ y, s.inBuf.read (s.work.pbase.toNat + j / 8) = some y ∧ bits[j]? = some (payloadBit y j) := by
  have hlen := h.length
  obtain ⟨y, hy, hb⟩ := h.payload j (by omega)
  refine ⟨by omega, y, hpb ▸ hy, ?_⟩
  rw [hb, List.getElem?_eq_getElem hj]
  rfl

/-- CLR, HPAR and BUILD of a DECODE of an artifact make the tree of its input (R102, R224). -/
theorem decode_tree {u : State} {inp : List Byte} {r : NodeIx} {T : HTree} (h : Issued 0x02 u) (hok : u.inOk = 1)
    (hl : u.inLen.toNat ≤ u.maxInLen.val) (hT : TreeOf inp r T) (hne : inp ≠ []) (hmax : inp.length ≤ 2 ^ 56)
    (ha : Artifact u.inBuf u.inLen.toNat (fun b => inp.count b) (payloadOf T.codeD inp)) :
    ∃ w, Reaches u (((clearedState 0x02 u).setWork w).setPhase 0x20) ∧ w.root = r ∧ r ≠ Config.nil ∧ Holds w r T ∧
      w.tbits.toNat = (payloadOf T.codeD inp).length ∧ w.rbits = 0 ∧
      w.pbase.toNat = 13 + 9 * distinct fun b => inp.count b := by
  have hpos : u.inLen.toNat ≠ 0 := by
    have := ha.length
    omega
  have hinp := List.length_pos_iff.2 hne
  have hpl := hT.payload_length
  set c := (clearedState 0x02 u).setPhase 0x1C with hc
  have hclr : afterClr (clearedState 0x02 u) = c :=
    (if_neg (by decide : ¬ (0x02 : Byte) = 0x01)).trans (if_neg hpos)
  have h1 : Reaches u c := by
    rw [← hclr]
    refine issued_reaches (i := .decode) rfl h hok hl ?_
    change (afterClr (clearedState 0x02 u)).phase ≠ 0x00
    rw [hclr]
    exact (by decide : (0x1C : Byte) ≠ 0x00)
  obtain ⟨w, hw, hwo, hwf, hwt, hwp⟩ := hpar_artifact (s := c) ha (by omega) (by omega)
    (by rw [sum_count]; omega) (freqOf_clearWork u.work)
  have h2 : Reaches c (leafScan 0 (c.setWork w)) :=
    reaches_of_ok (i := .hpar) (k := afterHpar) h.noCall rfl rfl rfl hw (leafScan_busy _ _)
  have hfreq : freqOf w = fun b => inp.count b := funext hwf
  obtain ⟨w', hw', hbo, hroot, hnil, hholds⟩ := build_reaches (s := c.setWork w) (r := r) (T := T) h.noCall
    (by rw [State.setWork_work, hwo]; rfl) (by rw [State.setWork_work, hwo]; rfl) (by rw [State.setWork_work, hwo]; rfl)
    (by rw [State.setWork_work, hfreq]; exact usedSyms_count_ne_nil hne)
    (by rw [State.setWork_work, hfreq, sum_count]; omega) (by rw [State.setWork_work, hfreq]; exact hT.built)
  rw [State.setWork_work] at hbo
  have hafter : afterRoot ((c.setWork w).setWork w') = ((clearedState 0x02 u).setWork w').setPhase 0x20 :=
    if_neg (by decide : ¬ (0x02 : Byte) = 0x01)
  rw [hafter] at hw'
  refine ⟨w', h1.trans (h2.trans hw'), hroot, hnil, hholds, ?_, ?_, ?_⟩
  · rw [hbo]
    exact hwt
  · rw [hbo, hwo]
    rfl
  · rw [hbo]
    exact hwp

/-- DECODE of the artifact of an input gives that input, where OUT has room for it (R18, R224). -/
theorem decode_artifact {u : State} {inp : List Byte} {r : NodeIx} {T : HTree} (h : Issued 0x02 u) (hok : u.inOk = 1)
    (hl : u.inLen.toNat ≤ u.maxInLen.val) (hT : TreeOf inp r T) (hne : inp ≠ []) (hmax : inp.length ≤ 2 ^ 56)
    (ha : Artifact u.inBuf u.inLen.toNat (fun b => inp.count b) (payloadOf T.codeD inp))
    (hroom : inp.length ≤ u.outCap.toNat) : ∃ v, CompletesIn u v ∧ DecodedTo inp v := by
  obtain ⟨w, hw, hroot, hnil, hholds, htb, hrb, hpb⟩ := decode_tree h hok hl hT hne hmax ha
  set x := ((clearedState 0x02 u).setWork w).setPhase 0x20 with hx
  have hnil' : x.work.root ≠ Config.nil := by
    change w.root ≠ _
    rw [hroot]
    exact hnil
  have hwbeg : wbeg x = .ok () (x.setWork (x.work.setCursor x.work.root)) := if_neg hnil'
  set y := walkLoop (x.setWork (x.work.setCursor x.work.root)) with hy
  have hafter : afterWbeg (x.setWork (x.work.setCursor x.work.root)) = y := if_neg hnil'
  have hyeq : y = (x.setWork (x.work.setCursor x.work.root)).setPhase
      (if w.rbits.toNat < w.tbits.toNat then 0x1D else 0x21) := walkLoop_eq _
  have hstep : Reaches x y := by
    rw [← hafter]
    refine reaches_of_ok (i := .wbeg) h.noCall rfl rfl rfl hwbeg ?_
    rw [hafter, hyeq, State.setPhase_phase]
    split <;> decide
  have hrb0 : w.rbits.toNat = 0 := by rw [hrb]; rfl
  have hon : OnWalk y (payloadOf T.codeD inp) r T 0 := by
    rw [hyeq, hrb0, htb]
    exact ⟨h.noCall, hroot, hholds.congr rfl rfl, htb, hrb0,
      fun j hj => artifact_payload (s := x.setWork (x.work.setCursor x.work.root)) ha hpb hj, rfl⟩
  obtain ⟨t, ht, hont, hem, hcur⟩ := walk_input (inp := inp) hon (by rw [hyeq]; exact hroot)
    (fun b hb => hT.code hb) List.drop_zero (by rw [hyeq]; change 0 + _ ≤ u.outCap.toNat; omega)
  rw [Nat.zero_add] at hont
  have hwfin : wfin t = .ok () t := if_pos (hcur.trans hont.root.symm)
  have hend : Reaches t (gotoEnd 0 t) :=
    reaches_of_ok (i := .wfin) (k := afterWfin) hont.sub (hont.phase.trans (if_neg (Nat.lt_irrefl _))) rfl rfl hwfin
      (show (0x1F : Byte) ≠ 0x00 by decide)
  have hy0 : y.outLen.toNat = 0 := by rw [hyeq]; rfl
  refine ⟨complete 0 (gotoEnd 0 t), (hw.trans (hstep.trans (ht.trans hend))).completesIn_trans
    (completesIn_end hont.sub), ?_, ?_, ?_⟩
  · rw [complete_status, gotoEnd_op, hem.op, hyeq]
    rfl
  · rw [complete_outLen, gotoEnd_outLen, hem.len, hy0, Nat.zero_add]
  · have := hem.new
    rwa [hy0] at this

/-- DECODE of the zero-length artifact ends empty (R102, R239). -/
theorem decode_empty {u : State} (h : Issued 0x02 u) (hok : u.inOk = 1) (h0 : u.inLen = 0) :
    ∃ v, CompletesIn u v ∧ v.status = endStatus 2 0x02 ∧ v.outLen = 0 := by
  set c := clearedState 0x02 u
  have hclr : afterClr c = gotoEnd 2 c :=
    (if_neg (by decide : ¬ (0x02 : Byte) = 0x01)).trans (if_pos (congrArg BitVec.toNat h0))
  have h1 : Reaches u (gotoEnd 2 c) := by
    rw [← hclr]
    refine issued_reaches (i := .decode) rfl h hok (by rw [h0]; exact Nat.zero_le _) ?_
    change (afterClr c).phase ≠ 0x00
    rw [hclr]
    exact (by decide : (0x1F : Byte) ≠ 0x00)
  exact ⟨_, h1.completesIn_trans (completesIn_end h.noCall), rfl, rfl⟩

/-! ### The round trip -/

theorem not_fails {s t : State} (h : CompletesIn s t) (hf : statusFail t.status = 0) : ¬ Fails s := by
  rintro ⟨t', h', hf'⟩
  rw [completesIn_unique h h', hf'] at hf
  exact absurd hf (by decide)

/-- The copy of an artifact is an artifact. -/
theorem artifact_copy {t u : State} {freq : Byte → Nat} {bits : BitString}
    (h : Artifact t.outBuf t.outLen.toNat freq bits) (hc : CopiesOutput t u) :
    Artifact u.inBuf u.inLen.toNat freq bits := by
  obtain ⟨hlen, hread⟩ := hc
  have hl := h.length
  refine ⟨by rw [hlen, hl], fun k hk => ?_, fun k hk => ?_⟩
  · have := hk
    rw [headerBytes_length] at this
    rw [hread _ (by omega)]
    exact h.header k hk
  · rw [hread _ (by omega)]
    exact h.payload k hk

/-- Settles O60: a successful ENCODE leaves the artifact of its input, made with the tree that the byte counts alone
determine; DECODE reads the same counts, builds the same tree, and its walk takes the codes apart again. -/
theorem decodeOfEncodeIsInput : Obligations.DecodeOfEncodeIsInput := by
  unfold Obligations.DecodeOfEncodeIsInput
  intro s t u hs hload hst hfail hu hcopy hok hl hroom
  have hnf := not_fails hst hfail
  have hsok : s.inOk = 1 := by
    have hne : s.inOk ≠ 0 := fun h0 => hnf (issued_fails (i := .encode) rfl hs (.inl h0))
    bv_omega
  have hsl : s.inLen.toNat ≤ s.maxInLen.val :=
    Nat.not_lt.1 fun h0 => hnf (issued_fails (i := .encode) rfl hs (.inr h0))
  by_cases h0 : s.inLen = 0
  · obtain ⟨t', ht', -, hout⟩ := encode_empty hs hsok h0
    obtain rfl := completesIn_unique hst ht'
    obtain ⟨v, hv, hvs, hvo⟩ := decode_empty hu hok (hcopy.1.trans hout)
    refine ⟨v, hv, by rw [hvs, statusFail_end], hvo.trans h0.symm, fun a ha => ?_⟩
    rw [h0] at ha
    exact absurd ha (Nat.not_lt_zero a)
  · obtain ⟨inp, hin⟩ := exists_input hload
    have hne : inp ≠ [] := by
      rintro rfl
      exact h0 (BitVec.eq_of_toNat_eq hin.length.symm)
    have hmax : inp.length ≤ 2 ^ 56 := by
      have := s.maxInLen.isLt
      rw [hin.length]
      omega
    obtain ⟨r, T, hT⟩ := exists_treeOf hne
    obtain ⟨t', ht', he⟩ | ⟨hf, -⟩ := encode_cases hs hin hsok hsl hT hne
    · obtain rfl := completesIn_unique hst ht'
      obtain ⟨v, hv, hd⟩ := decode_artifact hu hok hl hT hne hmax (artifact_copy he.artifact hcopy)
        (by rw [hin.length]; exact hroom)
      refine ⟨v, hv, by rw [hd.status, statusFail_end], BitVec.eq_of_toNat_eq (hd.length.trans hin.length),
        fun a ha => ?_⟩
      rw [← hin.length] at ha
      rw [← Nat.zero_add a, hd.output a ha, hin.stands a ha]
    · exact absurd hf hnf

end Sys2Proof.Proofs

namespace Sys2Proof.Proofs

open Sys2Proof.Machine Sys2Proof.Safety Sys2Proof.Reference

/-! ### What a transition of the sequencer can write -/

/-- The sequencer has moved on from `s` with a command running: PHASE, the END operand and the scan counters may have
changed (R107). -/
structure MovesOn (s t : State) : Prop where
  busy : t.phase ≠ 0x00
  only : t = { s with phase := t.phase, endArg := t.endArg, work := t.work }

theorem movesOn_setPhase (s : State) {p : Byte} (hp : p ≠ 0x00) : MovesOn s (s.setPhase p) := ⟨hp, rfl⟩

theorem movesOn_setWork_setPhase (s : State) (w : Work) {p : Byte} (hp : p ≠ 0x00) :
    MovesOn s ((s.setWork w).setPhase p) := ⟨hp, rfl⟩

theorem movesOn_gotoEnd (c : BitVec 4) (s : State) : MovesOn s (gotoEnd c s) :=
  ⟨(by decide : (0x1F : Byte) ≠ 0x00), rfl⟩

theorem movesOn_leafScan (k : Nat) (s : State) (w : Work) : MovesOn s (leafScan k (s.setWork w)) := by
  refine ⟨leafScan_busy k _, ?_⟩
  obtain ⟨z, p, h, -⟩ := leafScan_cases k (s.setWork w)
  rw [h]
  rfl

theorem movesOn_afterClr (s : State) : MovesOn s (afterClr s) := by
  unfold afterClr
  split
  · split
    · exact movesOn_setWork_setPhase s _ (by decide)
    · exact movesOn_leafScan 0 s _
  · split
    · exact movesOn_gotoEnd 2 s
    · exact movesOn_setPhase s (by decide)

theorem movesOn_afterFacc (s : State) : MovesOn s (afterFacc s) := by
  unfold afterFacc
  dsimp only
  split
  · exact movesOn_setWork_setPhase s _ (by decide)
  · exact movesOn_leafScan 0 s _

theorem movesOn_mergeOrRoot (s : State) : MovesOn s (mergeOrRoot s) := by
  unfold mergeOrRoot
  split
  · exact movesOn_setPhase s (by decide)
  · exact movesOn_setPhase s (by decide)

theorem movesOn_afterRoot (s : State) : MovesOn s (afterRoot s) := by
  unfold afterRoot
  split
  · split
    · exact movesOn_gotoEnd 2 s
    · exact movesOn_setPhase s (by decide)
  · exact movesOn_setPhase s (by decide)

theorem movesOn_afterHser (s : State) : MovesOn s (afterHser s) := by
  unfold afterHser
  split
  · exact movesOn_setWork_setPhase s _ (by decide)
  · exact movesOn_setWork_setPhase s _ (by decide)

theorem movesOn_afterPushc (s : State) : MovesOn s (afterPushc s) := by
  unfold afterPushc
  dsimp only
  split
  · exact movesOn_setWork_setPhase s _ (by decide)
  · exact movesOn_setWork_setPhase s _ (by decide)

theorem movesOn_walkLoop (s : State) : MovesOn s (walkLoop s) := by
  unfold walkLoop
  split
  · exact movesOn_setPhase s (by decide)
  · exact movesOn_setPhase s (by decide)

theorem movesOn_afterWbeg (s : State) : MovesOn s (afterWbeg s) := by
  unfold afterWbeg
  split
  · exact movesOn_gotoEnd 2 s
  · exact movesOn_walkLoop s

/-! ### What an operation can do -/

/-- The micro-operation `i` is a rule that stays inside its frame, followed by a transition of the sequencer. -/
structure RunsRule (i : Instr) (rule : State → Res Unit) (next : State → State) : Prop where
  exec_eq : ∀ s, exec i s = settle (opcode i) (rule s) next
  framed : ∀ s, (rule s).Framed s
  moves : ∀ s, MovesOn s (next s)

theorem framed_clr (s : State) : (clr s).Framed s := framed_to () (by constructor <;> rfl)

/-- Every micro-operation but END is a framed rule and a transition (R107). -/
theorem micro_runsRule {i : Instr} (hi : i.opClass = .micro) (hne : i ≠ .endCmd) :
    ∃ rule next, RunsRule i rule next := by
  cases i with
  | clr => exact ⟨clr, afterClr, fun _ => rfl, framed_clr, movesOn_afterClr⟩
  | facc => exact ⟨facc, afterFacc, fun _ => rfl, framed_facc, movesOn_afterFacc⟩
  | leaf => exact ⟨leaf, afterLeaf, fun _ => rfl, framed_leaf, fun s => movesOn_leafScan _ s s.work⟩
  | merge => exact ⟨merge, afterMerge, fun _ => rfl, framed_merge, movesOn_mergeOrRoot⟩
  | root => exact ⟨root, afterRoot, fun _ => rfl, framed_root, movesOn_afterRoot⟩
  | cgen => exact ⟨cgen, afterCgen, fun _ => rfl, framed_cgen, fun s => movesOn_setPhase s (by decide)⟩
  | hser => exact ⟨hser, afterHser, fun _ => rfl, framed_hser, movesOn_afterHser⟩
  | pushc => exact ⟨pushc, afterPushc, fun _ => rfl, framed_pushc, movesOn_afterPushc⟩
  | fin => exact ⟨fin, afterFin, fun _ => rfl, framed_fin, movesOn_gotoEnd 0⟩
  | hpar => exact ⟨hpar, afterHpar, fun _ => rfl, framed_hpar, fun s => movesOn_leafScan 0 s s.work⟩
  | getb => exact ⟨getb, afterGetb, fun _ => rfl, framed_getb, fun s => movesOn_setPhase s (by decide)⟩
  | walk1 => exact ⟨walk1, afterWalk1, fun _ => rfl, framed_walk1, movesOn_walkLoop⟩
  | wbeg => exact ⟨wbeg, afterWbeg, fun _ => rfl, framed_wbeg, movesOn_afterWbeg⟩
  | wfin => exact ⟨wfin, afterWfin, fun _ => rfl, framed_wfin, movesOn_gotoEnd 0⟩
  | endCmd => exact absurd rfl hne
  | encode | decode | hins | hext | push1 => cases hi

/-- Everything a micro-operation other than END can do, where it answers a next state: its rule completes and the
sequencer moves on, or its rule raises and the abort sequence runs with its opcode as the STAGE (R107, R246). -/
theorem exec_micro_cases {i : Instr} {s t : State} (hi : i.opClass = .micro) (hne : i ≠ .endCmd)
    (h : exec i s = .next t) :
    (∃ u, SameOutside s u ∧ MovesOn u t) ∨ ∃ e u, SameOutside s u ∧ t = abort e (opcode i) u.disownOut := by
  obtain ⟨rule, next, hrun⟩ := micro_runsRule hi hne
  rw [hrun.exec_eq, settle_eq_next] at h
  obtain ⟨u, hu, rfl⟩ | ⟨e, u, hu, rfl⟩ := h
  · exact .inl ⟨u, (hrun.framed s).ok () u hu, hrun.moves u⟩
  · exact .inr ⟨e, u, (hrun.framed s).raise e u hu, rfl⟩

/-- Everything a subroutine run by itself can do: it writes no more than its frame and the latch hArg, or the abort
sequence runs with PHASE as the STAGE (R122, R123, R173, R246). -/
theorem exec_subroutine_cases {i : Instr} {s t : State} (hi : i.opClass = .subroutine) (h : exec i s = .next t) :
    (∃ u, SameOutside s u ∧ t = { u with hArg := t.hArg }) ∨
    ∃ e u, SameOutside s u ∧ t = abort e s.phase u.disownOut := by
  cases i with
  | hins =>
    obtain ⟨u, hu, rfl⟩ | ⟨e, u, hu, rfl⟩ := (settle_eq_next _ _).1 h
    · exact .inl ⟨_, (framed_heapInsert _ s).ok _ _ hu, rfl⟩
    · exact .inr ⟨e, u, (framed_heapInsert _ s).raise _ _ hu, rfl⟩
  | hext =>
    obtain ⟨u, hu, rfl⟩ | ⟨e, u, hu, rfl⟩ := (settle_eq_next _ _).1 h
    · obtain ⟨i, v, hv, hk⟩ := (Res.bind_eq_ok _).1 hu
      cases hk
      exact .inl ⟨v, (framed_heapExtract s).ok _ _ hv, rfl⟩
    · obtain hv | ⟨i, v, -, hk⟩ := (Res.bind_eq_raise _ _).1 hu
      · exact .inr ⟨e, u, (framed_heapExtract s).raise _ _ hv, rfl⟩
      · cases hk
  | push1 =>
    obtain ⟨u, hu, rfl⟩ | ⟨e, u, hu, rfl⟩ := (settle_eq_next _ _).1 h
    · exact .inl ⟨_, (framed_pushBit _ s).ok _ _ hu, rfl⟩
    · exact .inr ⟨e, u, (framed_pushBit _ s).raise _ _ hu, rfl⟩
  | _ => cases hi

/-- Everything command issue can do: a precheck aborts it, or CLR is next (R100). -/
theorem issue_cases {c : Byte} {s t : State} (h : issue c s = .next t) :
    (∃ e, t = abort e c { s with op := c }) ∨
    (s.inLen.toNat ≤ s.maxInLen.val ∧ t = { s with op := c, phase := 0x10 }) := by
  by_cases hok : s.inOk = 0
  · rw [issue_notOk hok] at h
    cases h
    exact .inl ⟨_, rfl⟩
  · obtain hl | hl := Nat.lt_or_ge s.maxInLen.val s.inLen.toNat
    · rw [issue_tooLong hok hl] at h
      cases h
      exact .inl ⟨_, rfl⟩
    · rw [issue_starts hok hl] at h
      cases h
      exact .inr ⟨hl, rfl⟩

theorem exec_host_eq_issue {i : Instr} (hi : i.opClass = .host) (s : State) : exec i s = issue (opcode i) s := by
  cases i with
  | encode | decode => rfl
  | _ => cases hi

/-- `t` agrees with `s` in everything that belongs to the host, in CMD and the call slot, and in MAX_IN_LEN. -/
structure HostSideKept (s t : State) : Prop where
  inBuf : t.inBuf = s.inBuf
  inLen : t.inLen = s.inLen
  outCap : t.outCap = s.outCap
  inOk : t.inOk = s.inOk
  cmd : t.cmd = s.cmd
  sub : t.sub = s.sub
  maxInLen : t.maxInLen = s.maxInLen
  hostQ : t.hostQ = s.hostQ
  hostData : t.hostData = s.hostData

theorem HostSideKept.trans {s t u : State} (h : HostSideKept s t) (h' : HostSideKept t u) : HostSideKept s u where
  inBuf := h'.inBuf.trans h.inBuf
  inLen := h'.inLen.trans h.inLen
  outCap := h'.outCap.trans h.outCap
  inOk := h'.inOk.trans h.inOk
  cmd := h'.cmd.trans h.cmd
  sub := h'.sub.trans h.sub
  maxInLen := h'.maxInLen.trans h.maxInLen
  hostQ := h'.hostQ.trans h.hostQ
  hostData := h'.hostData.trans h.hostData

theorem hostSideKept_frame {s t : State} (h : SameOutside s t) : HostSideKept s t :=
  ⟨h.inBuf, h.inLen, h.outCap, h.inOk, h.cmd, h.sub, h.maxInLen, h.hostQ, h.hostData⟩

theorem hostSideKept_abort (e : Raise) (x : Byte) (s : State) : HostSideKept s (abort e x s.disownOut) := by
  constructor <;> rfl

theorem hostSideKept_movesOn {s t : State} (h : MovesOn s t) : HostSideKept s t := by
  rw [h.only]
  constructor <;> rfl

/-- No operation writes what belongs to the host, whichever way it ends (R27, R51, R69). -/
theorem exec_hostSideKept {i : Instr} {s t : State} (h : exec i s = .next t) : HostSideKept s t := by
  by_cases hne : i = .endCmd
  · subst hne
    cases h
    constructor <;> rfl
  cases hi : i.opClass with
  | host =>
    rw [exec_host_eq_issue hi] at h
    obtain ⟨e, rfl⟩ | ⟨-, rfl⟩ := issue_cases h
    · constructor <;> rfl
    · constructor <;> rfl
  | micro =>
    obtain ⟨u, hu, ht⟩ | ⟨e, u, hu, rfl⟩ := exec_micro_cases hi hne h
    · exact (hostSideKept_frame hu).trans (hostSideKept_movesOn ht)
    · exact (hostSideKept_frame hu).trans (hostSideKept_abort _ _ u)
  | subroutine =>
    obtain ⟨u, hu, ht⟩ | ⟨e, u, hu, rfl⟩ := exec_subroutine_cases hi h
    · refine (hostSideKept_frame hu).trans ?_
      rw [ht]
      constructor <;> rfl
    · exact (hostSideKept_frame hu).trans (hostSideKept_abort _ _ u)

/-! ### What a step can be -/

/-- The opcode map agrees with the encoder's column. -/
theorem opcodeMap_rows : ∀ row ∈ opcodeMap, row.1 = opcode row.2 := by decide

/-- The byte an operation is decoded from is its opcode (R73). -/
theorem opcode_of_decode {b : Byte} {i : Instr} {rest : List Byte} (h : decode [b] = .ok (i, rest)) : b = opcode i := by
  simp only [decode, decodeByte] at h
  cases hf : opcodeMap.find? fun row => row.1 == b with
  | none => simp [hf] at h
  | some row =>
    simp only [hf, Option.map_some, Except.ok.injEq, Prod.mk.injEq] at h
    have hb : row.1 = b := by simpa using List.find?_some hf
    rw [← hb, ← h.1]
    exact opcodeMap_rows row (List.mem_of_find?_eq_some hf)

/-- Everything a step can be, where it answers a next state: a move of the idle host, or an operation that may stand at
its port (R23, R26, R38). -/
theorem step_cases {s t : State} (h : step s = .next t) :
    (fetch s = none ∧ idleStep s = .next t) ∨
    ∃ p i, fetch s = some (p, opcode i) ∧ i.opClass = p.accepts ∧ exec i (consume p s) = .next t := by
  unfold step at h
  split at h
  · next hf => exact .inl ⟨hf, h⟩
  · next p b hf =>
    split at h
    · cases h
    · next i rest hd =>
      split at h
      · next hw =>
        refine .inr ⟨p, i, ?_, by simpa [Instr.wellFormedAt] using hw, h⟩
        rw [hf, opcode_of_decode hd]
      · cases h

end Sys2Proof.Proofs

namespace Sys2Proof.Proofs

open Sys2Proof.Machine Sys2Proof.Safety Sys2Proof.Reference

/-! ### The invariant where no command runs -/

/-- IDLE and CLR have no preconditions. -/
theorem operandsOk_of_free {s : State} (h : s.phase = 0x00 ∨ s.phase = 0x10) : OperandsOk s := by
  obtain hp | hp := h
  all_goals
    constructor <;> rw [hp]
    case payload => intro _ h; exact absurd h (by decide)
    all_goals (intro h; exact absurd h (by decide))

/-- With HUFFCORE idle the invariant speaks of the buffers, STATUS and OUT_LEN alone. -/
theorem inv_of_idle {s : State} (hp : s.phase = 0x00) (ho : s.op = 0x00) (hin : s.inBuf.wf = true)
    (hout : s.outBuf.wf = true) (hsub : s.sub = none) (hres : statusReservedZero s.status = true)
    (hcause : (statusCause s.status).toNat ≤ 6) (hfail : statusFail s.status = 1 → s.outLen = 0)
    (hempty : statusEmpty s.status = 1 → s.outLen = 0) : Inv s where
  inCanonical := hin
  outCanonical := hout
  phaseLegal := by rw [hp]; decide
  noCall := hsub
  idleIffNoOp := iff_of_true hp ho
  opLegal := .inl ho
  encodeOnly := by rw [hp]; intro h; exact absurd h (by decide)
  decodeOnly := by rw [hp]; intro h; exact absurd h (by decide)
  notIssuedTwice := fun h => absurd hp h
  lengthChecked := fun h => absurd hp h
  statusReserved := hres
  causeLegal := hcause
  failedNoOutput := fun _ => hfail
  emptyNoOutput := fun _ => hempty
  endCause := by rw [hp]; intro h; exact absurd h (by decide)
  nothingAppended := by rw [hp]; intro h; exact absurd h (by decide)
  withinCapacity := fun h => absurd hp h.1
  heap := fun h => absurd hp h.1
  arena := fun h => absurd hp h.1
  operands := operandsOk_of_free (.inl hp)

theorem raise_cause_le (e : Raise) : e.cause.toNat ≤ 6 := by cases e <;> decide

/-- The abort sequence ends in a state that meets the invariant (R246). -/
theorem inv_abort {s : State} (e : Raise) (x : Byte) (hin : s.inBuf.wf = true) (hout : s.outBuf.wf = true)
    (hsub : s.sub = none) : Inv (abort e x s) := by
  refine inv_of_idle rfl rfl hin hout hsub ?_ ?_ (fun _ => rfl) (fun _ => rfl)
  · rw [abort_status, statusReservedZero_abort]
  · rw [abort_status, statusCause_abort]
    exact raise_cause_le e

/-- END leaves OUT_LEN 0 where its cause is the EMPTY signal (R106). -/
theorem inv_complete {s : State} (h : Inv s) (hp : s.phase = 0x1F) : Inv (complete s.endArg s) := by
  have hc := h.endCause hp
  refine inv_of_idle rfl rfl h.inCanonical h.outCanonical h.noCall ?_ ?_ (fun hf => ?_) (fun he => ?_)
  · rw [complete_status, statusReservedZero_end]
  · rw [complete_status, statusCause_end]
    obtain h0 | ⟨h2, -⟩ := hc
    · rw [h0]; decide
    · rw [h2]; decide
  · rw [complete_status, statusFail_end] at hf
    exact absurd hf (by decide)
  · rw [complete_status, statusEmpty_end] at he
    obtain h0 | ⟨-, hlen⟩ := hc
    · rw [h0] at he
      exact absurd he (by decide)
    · exact hlen

/-! ### The invariant while a command runs -/

/-- What the invariant says of a command that is past CLR, whatever operation stands in PHASE. -/
structure Running (s : State) : Prop where
  inCanonical : s.inBuf.wf = true
  outCanonical : s.outBuf.wf = true
  noCall : s.sub = none
  opLegal : s.op = 0x01 ∨ s.op = 0x02
  noCmd : s.cmd = none
  lengthChecked : s.inLen.toNat ≤ s.maxInLen.val
  statusReserved : statusReservedZero s.status = true
  causeLegal : (statusCause s.status).toNat ≤ 6
  withinCapacity : s.outLen.toNat ≤ s.outCap.toNat
  heap : HeapOk s.work
  arena : ArenaOk s.work

/-- A rule keeps `Running` where it leaves OUT, the heap and the arena well formed. -/
theorem running_of_inv {s u : State} (h : Inv s) (busy : s.phase ≠ 0x00) (hu : SameOutside s u)
    (hout : u.outBuf.wf = true) (hcap : u.outLen.toNat ≤ u.outCap.toNat) (hh : HeapOk u.work) (ha : ArenaOk u.work) :
    Running u where
  inCanonical := by rw [hu.inBuf]; exact h.inCanonical
  outCanonical := hout
  noCall := hu.sub.trans h.noCall
  opLegal := by
    rw [hu.op]
    exact h.opLegal.resolve_left fun h0 => busy (h.idleIffNoOp.2 h0)
  noCmd := hu.cmd.trans (h.notIssuedTwice busy)
  lengthChecked := by rw [hu.inLen, hu.maxInLen]; exact h.lengthChecked busy
  statusReserved := by rw [hu.status]; exact h.statusReserved
  causeLegal := by rw [hu.status]; exact h.causeLegal
  withinCapacity := hcap
  heap := hh
  arena := ha

theorem running_of_cleared {s : State} (h : Inv s) (hc : cleared s) : Running s :=
  running_of_inv h hc.1 (.refl s) h.outCanonical (h.withinCapacity hc) (h.heap hc) (h.arena hc)

/-- CLR makes HEAP and the arena well formed, and OUT empty (R103). -/
theorem running_clr {s : State} (h : Inv s) (busy : s.phase ≠ 0x00) :
    Running { s.setWork (clearWork s.work) with outLen := 0 } := by
  refine running_of_inv h busy (by constructor <;> rfl) h.outCanonical (Nat.zero_le _) ⟨.nil, rfl, Nat.zero_le _, ?_⟩
    ⟨Nat.zero_le _, ?_⟩
  · intro i hi
    cases hi
  · intro i nd hi
    exact absurd hi (Nat.not_lt_zero _)

/-- What the invariant asks of a state in which PHASE is to become `p`: what it says of OP, OUT and the END operand at
`p`, and the preconditions of the operation at `p`. For a known `p` the fields about other phases are settled by
computation. -/
structure Enters (p : Byte) (s : State) : Prop where
  legal : p ∈ legalPhases.tail := by decide
  encodeOnly : p ∈ encodePhases → s.op = 0x01 := by intro h; exact absurd h (by decide)
  decodeOnly : p ∈ decodePhases → s.op = 0x02 := by intro h; exact absurd h (by decide)
  endCause : p = 0x1F → s.endArg = 0 ∨ s.endArg = 2 ∧ s.outLen = 0 := by intro h; exact absurd h (by decide)
  nothingAppended : p ∈ beforeOutput → s.outLen = 0 := by intro h; exact absurd h (by decide)
  inputByte : p = 0x11 ∨ p = 0x1A → s.work.iptr.toNat < s.inLen.toNat := by intro h; exact absurd h (by decide)
  symbol : p = 0x12 → s.work.scan.toNat < 256 := by intro h; exact absurd h (by decide)
  twoEntries : p = 0x15 → 2 ≤ s.work.hsize.toNat := by intro h; exact absurd h (by decide)
  oneEntry : p = 0x16 → s.work.hsize.toNat ≤ 1 := by intro h; exact absurd h (by decide)
  tree : p ∈ [0x17, 0x18, 0x1A, 0x1B, 0x1D, 0x1E, 0x21] → RootInUse s.work := by intro h; exact absurd h (by decide)
  noTreeOrTree : p = 0x20 → s.work.root = Config.nil ∨ RootInUse s.work := by intro h; exact absurd h (by decide)
  cursor : p ∈ [0x1D, 0x1E] → CursorOk s.work := by intro h; exact absurd h (by decide)
  payload : s.op = 0x02 → p ∈ [0x12, 0x15, 0x16, 0x20, 0x1D, 0x1E, 0x21] → PayloadInside s := by
    intro _ h; exact absurd h (by decide)
  bitLeft : p = 0x1D → s.work.rbits.toNat < s.work.tbits.toNat := by intro h; exact absurd h (by decide)

theorem Enters.operandsOk {s : State} {p : Byte} (h : Enters p s) : OperandsOk (s.setPhase p) :=
  ⟨h.inputByte, h.symbol, h.twoEntries, h.oneEntry, h.tree, h.noTreeOrTree, h.cursor, h.payload, h.bitLeft⟩

/-- A running command may go on to every phase it may enter. -/
theorem Running.inv_setPhase {s : State} {p : Byte} (h : Running s) (he : Enters p s) : Inv (s.setPhase p) := by
  have hp : p ≠ 0x00 := by
    rintro rfl
    exact absurd he.legal (by decide)
  have ho : s.op ≠ 0x00 := by
    obtain h1 | h2 := h.opLegal
    · rw [h1]; decide
    · rw [h2]; decide
  exact {
    inCanonical := h.inCanonical
    outCanonical := h.outCanonical
    phaseLegal := List.mem_of_mem_tail he.legal
    noCall := h.noCall
    idleIffNoOp := iff_of_false hp ho
    opLegal := .inr h.opLegal
    encodeOnly := he.encodeOnly
    decodeOnly := he.decodeOnly
    notIssuedTwice := fun _ => h.noCmd
    lengthChecked := fun _ => h.lengthChecked
    statusReserved := h.statusReserved
    causeLegal := h.causeLegal
    failedNoOutput := fun h0 => absurd h0 hp
    emptyNoOutput := fun h0 => absurd h0 hp
    endCause := he.endCause
    nothingAppended := he.nothingAppended
    withinCapacity := fun _ => h.withinCapacity
    heap := fun _ => h.heap
    arena := fun _ => h.arena
    operands := he.operandsOk }

/-- END is entered with cause 0, or with cause 2 and no output (R107). -/
theorem inv_gotoEnd {s : State} {c : BitVec 4} (h : Running s) (hc : c = 0 ∨ c = 2 ∧ s.outLen = 0) :
    Inv (gotoEnd c s) :=
  have h' : Running { s with endArg := c } := { h with }
  h'.inv_setPhase (p := 0x1F) { endCause := fun _ => hc }

/-! ### Writes that leave the tree alone -/

/-- The heap, the arena and ROOT are the same. -/
structure SameTree (w w' : Work) : Prop where
  heap : w'.heap = w.heap
  hsize : w'.hsize = w.hsize
  nnodes : w'.nnodes = w.nnodes
  node : w'.node = w.node
  root : w'.root = w.root

theorem SameTree.heapOk {w w' : Work} (h : SameTree w w') (hw : HeapOk w) : HeapOk w' := by
  unfold HeapOk
  rw [h.heap, h.hsize, h.nnodes]
  exact hw

theorem SameTree.arenaOk {w w' : Work} (h : SameTree w w') (hw : ArenaOk w) : ArenaOk w' := by
  unfold ArenaOk Work.nodeAt
  rw [h.nnodes, h.node]
  exact hw

theorem SameTree.rootInUse {w w' : Work} (h : SameTree w w') (hw : RootInUse w) : RootInUse w' := by
  unfold RootInUse
  rw [h.root, h.nnodes]
  exact hw

theorem Running.setWork {s : State} {w : Work} (h : Running s) (hh : HeapOk w) (ha : ArenaOk w) :
    Running (s.setWork w) :=
  { h with heap := hh, arena := ha }

theorem Running.sameTree {s : State} {w : Work} (h : Running s) (hw : SameTree s.work w) : Running (s.setWork w) :=
  h.setWork (hw.heapOk h.heap) (hw.arenaOk h.arena)

theorem Running.countDraw {s : State} (h : Running s) : Running s.countDraw := { h with }

/-- A byte appended where OUT has room keeps OUT canonical and within OUT_CAP (R54, R58). -/
theorem Running.append {s : State} (h : Running s) (b : Byte) (hr : s.outLen.toNat < s.outCap.toNat) :
    Running (s.setOut (s.outBuf.write s.outLen.toNat b) (s.outLen + 1)) :=
  { h with
    outCanonical := Memory.wf_write _ _ h.outCanonical
    withinCapacity := (outLen_succ hr).trans_le hr }

/-! ### Predicates that a rule keeps -/

/-- Where the result completes, it completes in a state with `P`. -/
def Res.Ends {α : Type} (r : Res α) (P : State → Prop) : Prop := ∀ a t, r = .ok a t → P t

theorem ends_ok {α : Type} {P : State → Prop} {a : α} {s : State} (h : P s) : Res.Ends (.ok a s) P := by
  intro _ _ he
  cases he
  exact h

theorem ends_raise {α : Type} {P : State → Prop} {e : Raise} {s : State} : Res.Ends (.raise e s : Res α) P :=
  fun _ _ he => nomatch he

theorem ends_stop {α : Type} {P : State → Prop} {f : Fault} : Res.Ends (.stop f : Res α) P :=
  fun _ _ he => nomatch he

theorem ends_bind {α β : Type} {P Q : State → Prop} {r : Res α} {k : α → State → Res β} (h : Res.Ends r P)
    (hk : ∀ a t, P t → Res.Ends (k a t) Q) : Res.Ends (r.bind k) Q := by
  intro b t hb
  obtain ⟨a, u, hu, hku⟩ := (Res.bind_eq_ok k).1 hb
  exact hk a u (h a u hu) b t hku

theorem ends_forEach {α : Type} {P : State → Prop} {body : α → State → Res Unit} {s : State}
    (h : ∀ x t, P t → Res.Ends (body x t) P) (xs : List α) (hs : P s) : Res.Ends (forEach xs body s) P :=
  fun _ t ht => forEach_keeps (fun x u v hu hv => h x u hu () v hv) xs s t hs ht

theorem ends_getIn {P : State → Prop} {a : Nat} {s : State} (h : P s) : Res.Ends (getIn a s) P := by
  intro b t ht
  obtain ⟨-, -, rfl⟩ := getIn_eq_ok.1 ht
  exact h

theorem ends_memReadIn {P : State → Prop} {n a : Nat} {s : State} (h : P s) : Res.Ends (memReadIn n a s) P := by
  intro v t ht
  rw [memReadIn_ok_state ht]
  exact h

theorem ends_getNode {P : State → Prop} {i : NodeIx} {s : State} (h : P s) : Res.Ends (getNode i s) P := by
  unfold getNode
  split
  · exact ends_ok h
  · exact ends_stop

/-- Storing a value changes the draw counter at most. -/
theorem store_state {r : Config.FreeReg} {w v : Nat} {s t : State} {x : BitVec w} (h : store r w v s = .ok x t) :
    t = s ∨ t = s.countDraw := by
  obtain ⟨-, he⟩ | ⟨-, he⟩ := store_cases r w v s
  · rw [he] at h
    cases h
    exact .inl rfl
  · rw [he] at h
    cases h
    exact .inr rfl

/-- `P` survives every write of the working state outside the tree. -/
structure QuietStable (P : State → Prop) : Prop where
  setWork : ∀ {s w}, P s → SameTree s.work w → P (s.setWork w)
  countDraw : ∀ {s}, P s → P s.countDraw

/-- `P` survives an appended byte too. -/
structure AppendStable (P : State → Prop) : Prop extends QuietStable P where
  append : ∀ {s} (b : Byte), P s → s.outLen.toNat < s.outCap.toNat →
    P (s.setOut (s.outBuf.write s.outLen.toNat b) (s.outLen + 1))

theorem appendStable_running : AppendStable Running where
  setWork := Running.sameTree
  countDraw := Running.countDraw
  append := fun b h hr => h.append b hr

theorem appendStable_root : AppendStable fun s => RootInUse s.work where
  setWork := fun h hw => hw.rootInUse h
  countDraw := id
  append := fun _ h _ => h

theorem quietStable_outLen : QuietStable fun s => s.outLen = 0 where
  setWork := fun h _ => h
  countDraw := id

section Quiet
variable {P : State → Prop} (hP : QuietStable P) {s : State}
include hP

theorem QuietStable.store {r : Config.FreeReg} {w v : Nat} (h : P s) : Res.Ends (store r w v s) P := by
  intro x t ht
  obtain rfl | rfl := store_state ht
  · exact h
  · exact hP.countDraw h

theorem QuietStable.facc (h : P s) : Res.Ends (facc s) P :=
  ends_bind (ends_getIn h) fun _ _ h => ends_bind (hP.store h) fun _ _ h =>
    ends_ok (hP.setWork h (by constructor <;> rfl))

theorem QuietStable.visit {room : Nat} {i : NodeIx} {path : BitString} (h : P s) :
    Res.Ends (visit room i path s) P := by
  induction room generalizing i path s with
  | zero =>
    unfold Machine.visit
    split
    · exact ends_stop
    · split
      · exact ends_ok (hP.setWork h (by constructor <;> rfl))
      · exact ends_raise
  | succ room ih =>
    unfold Machine.visit
    split
    · exact ends_stop
    · split
      · exact ends_ok (hP.setWork h (by constructor <;> rfl))
      · exact ends_bind (ih h) fun _ _ h => ih h

theorem QuietStable.cgen (h : P s) : Res.Ends (cgen s) P := by
  refine ends_bind (ends_getNode h) fun nd t h => ?_
  cases nd.tag
  · exact ends_ok (hP.setWork h (by constructor <;> rfl))
  · exact hP.visit h

theorem QuietStable.getPair {k : Nat} (h : P s) : Res.Ends (getPair k s) P :=
  ends_bind (ends_getIn h) fun _ _ h => ends_bind (ends_memReadIn h) fun _ _ h =>
    ends_ok (hP.setWork h (by constructor <;> rfl))

theorem QuietStable.headerRegs (h : P s) : Res.Ends (headerRegs s) P := by
  unfold Machine.headerRegs
  refine ends_bind (P := P) (ends_ok (hP.setWork h (by constructor <;> rfl))) fun _ s1 h => ?_
  refine ends_bind (hP.store h) fun _ s2 h => ?_
  refine ends_bind (P := P) (ends_ok (hP.setWork h (by constructor <;> rfl))) fun _ s3 h => ?_
  refine ends_bind (P := P) ?_ fun _ s4 h => ends_ok (hP.setWork h (by constructor <;> rfl))
  unfold validBits
  split
  · exact ends_ok (hP.countDraw h)
  · exact ends_ok h

theorem QuietStable.paddedByte (h : P s) : Res.Ends (paddedByte s) P := by
  unfold Machine.paddedByte
  split
  · exact ends_ok h
  · exact ends_ok (hP.countDraw h)

end Quiet

section Append
variable {P : State → Prop} (hP : AppendStable P) {s : State}
include hP

theorem AppendStable.putOut {b : Byte} (h : P s) : Res.Ends (putOut b s) P := by
  obtain ⟨hr, he⟩ | ⟨-, he⟩ := putOut_cases b s
  · rw [he]
    exact ends_ok (hP.append b h hr)
  · rw [he]
    exact ends_raise

theorem AppendStable.putOutN {m v : Nat} (h : P s) : Res.Ends (putOutN m v s) P := by
  induction m generalizing v s with
  | zero => exact ends_ok h
  | succ m ih => exact ends_bind (hP.putOut h) fun _ _ h => ih h

theorem AppendStable.putPair {row : Byte × Word} (h : P s) : Res.Ends (putPair row s) P := by
  unfold Machine.putPair
  split
  · exact ends_ok h
  · exact ends_bind (hP.putOut h) fun _ _ h => hP.putOutN h

theorem AppendStable.hser (h : P s) : Res.Ends (hser s) P := by
  unfold Machine.hser
  exact ends_bind (hP.headerRegs h) fun _ _ h => ends_bind (hP.putOutN h) fun _ _ h =>
    ends_bind (ends_forEach (fun _ _ h => hP.putPair h) _ h) fun _ _ h => ends_bind (hP.putOut h) fun _ _ h =>
    ends_bind (hP.putOutN h) fun _ _ h => ends_ok (hP.setWork h (by constructor <;> rfl))

theorem AppendStable.emptyAcc (h : P s) : Res.Ends (emptyAcc s) P :=
  ends_ok (hP.setWork h (by constructor <;> rfl))

theorem AppendStable.emitFull (h : P s) : Res.Ends (emitFull s) P := by
  unfold Machine.emitFull
  split
  · exact ends_bind (hP.putOut h) fun _ _ h => hP.emptyAcc h
  · exact ends_ok h

theorem AppendStable.pushBit {b : Bit} (h : P s) : Res.Ends (pushBit b s) P :=
  ends_bind (hP.store h) fun _ _ h => ends_bind (hP.store h) fun _ _ h =>
    ends_bind (ends_ok (hP.setWork h (by constructor <;> rfl))) fun _ _ h => hP.emitFull h

theorem AppendStable.pushc (h : P s) : Res.Ends (pushc s) P :=
  ends_bind (ends_getIn h) fun _ _ h => ends_forEach (fun _ _ h => hP.pushBit h) _ h

theorem AppendStable.emitHeld (h : P s) : Res.Ends (emitHeld s) P := by
  unfold Machine.emitHeld
  split
  · exact ends_bind (hP.paddedByte h) fun _ _ h => ends_bind (hP.putOut h) fun _ _ h => hP.emptyAcc h
  · exact ends_ok h

theorem AppendStable.fin (h : P s) : Res.Ends (fin s) P := by
  refine ends_bind (hP.emitHeld h) fun _ t h => ?_
  split
  · exact ends_ok h
  · exact ends_raise

end Append

end Sys2Proof.Proofs

namespace Sys2Proof.Proofs

open Sys2Proof.Machine Sys2Proof.Safety Sys2Proof.Reference

/-! ### The invariant of BUILD -/

/-- What holds from BUILD's first scan to ROOT: nothing is appended yet, and DECODE's payload lies inside IN. -/
structure Building (s : State) : Prop where
  running : Running s
  outLen : s.outLen = 0
  payload : s.op = 0x02 → PayloadInside s

theorem Building.setWork {s : State} {w : Work} (h : Building s) (hh : HeapOk w) (ha : ArenaOk w)
    (hp : w.pbase = s.work.pbase) (ht : w.tbits = s.work.tbits) : Building (s.setWork w) where
  running := h.running.setWork hh ha
  outLen := h.outLen
  payload := fun h2 => by
    unfold PayloadInside
    rw [State.setWork_work, hp, ht]
    exact h.payload h2

theorem building_store {r : Config.FreeReg} {w v : Nat} {s : State} (h : Building s) :
    Res.Ends (store r w v s) Building := by
  intro x t ht
  obtain rfl | rfl := store_state ht
  · exact h
  · exact ⟨h.running.countDraw, h.outLen, h.payload⟩

/-- A new node whose children are in use keeps BUILD's invariant (R31, R125, R148). -/
theorem building_addNode {nd : Node} {s : State} (h : Building s)
    (hnd : nd.tag = .internal → nd.left.toNat < s.work.nnodes.toNat ∧ nd.right.toNat < s.work.nnodes.toNat) :
    Res.Ends (addNode nd s) Building := by
  obtain hn | hn := Nat.lt_or_ge s.work.nnodes.toNat 511
  · obtain hh | hh := Nat.lt_or_ge s.work.hsize.toNat 256
    · rw [addNode_of_room hn hh]
      exact ends_ok (h.setWork (heapOk_addNode nd h.running.heap hn hh) (arenaOk_addNode h.running.arena hn hnd _ _)
        rfl rfl)
    · rw [addNode_heap hn hh]
      exact ends_raise
  · rw [addNode_arena hn]
    exact ends_raise

/-- HEXT returns a node in use and keeps BUILD's invariant (R123, R125). -/
theorem building_heapExtract {i : NodeIx} {s t : State} (h : Building s) (he : heapExtract s = .ok i t) :
    Building t ∧ i.toNat < s.work.nnodes.toNat ∧ t.work.nnodes = s.work.nnodes := by
  have h1 : 1 ≤ s.work.hsize.toNat := by
    refine Nat.one_le_iff_ne_zero.2 fun h0 => ?_
    rw [heapExtract_empty (BitVec.eq_of_toNat_eq h0)] at he
    cases he
  obtain ⟨j, hj, hm, -, -, hh⟩ := heapExtract_ok h.running.heap h.running.arena.1 h1
  rw [hj] at he
  cases he
  exact ⟨h.setWork hh h.running.arena rfl rfl, h.running.heap.2.2.2 _ hm, rfl⟩

theorem building_merge {s : State} (h : Building s) : Res.Ends (merge s) Building := by
  intro _ u hu
  obtain ⟨a, s1, h1, hu⟩ := (Res.bind_eq_ok _).1 hu
  obtain ⟨b, s2, h2, hu⟩ := (Res.bind_eq_ok _).1 hu
  obtain ⟨v, s3, h3, hu⟩ := (Res.bind_eq_ok _).1 hu
  obtain ⟨hb1, ha, hn1⟩ := building_heapExtract h h1
  obtain ⟨hb2, hb, hn2⟩ := building_heapExtract hb1 h2
  have hn3 : s3.work.nnodes = s2.work.nnodes := by
    obtain rfl | rfl := store_state h3
    · rfl
    · rfl
  refine building_addNode (building_store hb2 v s3 h3) (fun _ => ?_) () u hu
  rw [hn3, hn2]
  exact ⟨hn1 ▸ ha, hb⟩

/-- `while HSIZE > 1: MERGE`, then ROOT: each is entered under its precondition (R140 to R142). -/
theorem inv_mergeOrRoot {s : State} (h : Building s) : Inv (mergeOrRoot s) := by
  unfold mergeOrRoot
  split
  · next h1 =>
    exact h.running.inv_setPhase {
      nothingAppended := fun _ => h.outLen, twoEntries := fun _ => h1, payload := fun h2 _ => h.payload h2 }
  · next h1 =>
    exact h.running.inv_setPhase {
      nothingAppended := fun _ => h.outLen, oneEntry := fun _ => Nat.not_lt.1 h1,
      payload := fun h2 _ => h.payload h2 }

/-- LEAF is entered with SCAN a Symbol (R138, R139). -/
theorem inv_leafScan {s : State} (k : Nat) (h : Building s) : Inv (leafScan k s) := by
  have hscan : ∀ z, Building (s.setWork (s.work.setScan z)) := fun z =>
    h.setWork h.running.heap h.running.arena rfl rfl
  cases hk : nextSymbol k s.work with
  | some b =>
    rw [leafScan_some hk]
    refine (hscan _).running.inv_setPhase {
      nothingAppended := fun _ => h.outLen, symbol := fun _ => ?_, payload := fun h2 _ => h.payload h2 }
    have := b.isLt
    simp only [State.setWork_work, Work.setScan_scan, BitVec.toNat_setWidth]
    omega
  | none =>
    rw [(leafScan_none hk).trans (mergeOrRoot_eq (s.setWork _)).symm]
    exact inv_mergeOrRoot (hscan _)

/-! ### The invariant of the decode walk -/

/-- What holds while DECODE walks: the tree stands, CURSOR is in it, and the payload lies inside IN. -/
structure Walking (s : State) : Prop where
  running : Running s
  decoding : s.op = 0x02
  root : RootInUse s.work
  cursor : CursorOk s.work
  payload : PayloadInside s

/-- GETB is entered with a payload bit left (R222). -/
theorem inv_walkLoop {s : State} (h : Walking s) : Inv (walkLoop s) := by
  unfold walkLoop
  split
  · next hlt =>
    exact h.running.inv_setPhase {
      decodeOnly := fun _ => h.decoding, tree := fun _ => h.root, cursor := fun _ => h.cursor,
      payload := fun _ _ => h.payload, bitLeft := fun _ => hlt }
  · exact h.running.inv_setPhase {
      decodeOnly := fun _ => h.decoding, tree := fun _ => h.root, payload := fun _ _ => h.payload }

theorem Walking.setCursor {s : State} {i : NodeIx} (h : Walking s) (hi : CursorOk (s.work.setCursor i)) :
    Walking (s.setWork (s.work.setCursor i)) where
  running := h.running.sameTree (by constructor <;> rfl)
  decoding := h.decoding
  root := h.root
  cursor := hi
  payload := h.payload

theorem Walking.append {s : State} (h : Walking s) (b : Byte) (hr : s.outLen.toNat < s.outCap.toNat) :
    Walking (s.setOut (s.outBuf.write s.outLen.toNat b) (s.outLen + 1)) :=
  { h with running := h.running.append b hr }

theorem walking_putOut {s : State} {b : Byte} (h : Walking s) : Res.Ends (putOut b s) Walking := by
  obtain ⟨hr, he⟩ | ⟨-, he⟩ := putOut_cases b s
  · rw [he]
    exact ends_ok (h.append b hr)
  · rw [he]
    exact ends_raise

/-- CURSOR back at ROOT (R217, R218). -/
theorem cursorOk_root {w : Work} (h : RootInUse w) : CursorOk (w.setCursor w.root) := by
  refine ⟨h, fun a b ha hb => ?_⟩
  cases ha.symm.trans hb
  rfl

theorem getNode_eq_ok {i : NodeIx} {nd : Node} {s t : State} :
    getNode i s = .ok nd t ↔ s.work.nodeAt i = some nd ∧ t = s := by
  unfold getNode
  split
  · next x hx => simp [hx, eq_comm]
  · next hx => simp [hx]

/-- From an Internal node in use both edges lead to nodes in use (R31, R148). -/
theorem child_inUse {w : Work} {i : NodeIx} {nd : Node} (h : ArenaOk w) (hi : i.toNat < w.nnodes.toNat)
    (hnd : w.nodeAt i = some nd) (ht : nd.tag = .internal) (b : Bit) : (nd.child b).toNat < w.nnodes.toNat := by
  obtain ⟨hl, hr⟩ := h.2 i nd hi hnd ht
  unfold Node.child
  split
  · exact hl.trans hi
  · exact hr.trans hi

/-- An edge below an Internal root leads to an Internal node, or over a Leaf back to ROOT (R218). -/
theorem walking_walkEdge {s : State} {top : Node} (h : Walking s) (htop : s.work.nodeAt s.work.root = some top)
    (ht : top.tag = .internal) : Res.Ends (walkEdge s) Walking := by
  intro _ u hu
  simp only [walkEdge, Res.bind_eq_ok, getNode_eq_ok, putWork_eq, Res.bind_ok] at hu
  obtain ⟨here, s1, ⟨hhere, rfl⟩, nd, s2, ⟨hnd, rfl⟩, hu⟩ := hu
  have hin : here.tag = .internal := (h.cursor.2 here top hhere htop).trans ht
  have hchild := child_inUse h.running.arena h.cursor.1 hhere hin s1.work.bit
  cases hnt : nd.tag with
  | internal =>
    simp only [hnt] at hu
    cases hu
    refine h.setCursor ⟨hchild, fun a b ha hb => ?_⟩
    cases hnd.symm.trans ha
    cases htop.symm.trans hb
    exact hnt.trans ht.symm
  | leaf =>
    simp only [hnt] at hu
    obtain ⟨hr, he⟩ | ⟨-, he⟩ := putOut_cases nd.sym (s1.setWork (s1.work.setCursor (here.child s1.work.bit)))
    · rw [he] at hu
      cases hu
      exact (h.append nd.sym hr).setCursor (cursorOk_root h.root)
    · rw [he] at hu
      cases hu

theorem walking_walk1 {s : State} (h : Walking s) : Res.Ends (walk1 s) Walking := by
  intro _ u hu
  simp only [walk1, Res.bind_eq_ok, getNode_eq_ok] at hu
  obtain ⟨top, _, ⟨htop, rfl⟩, hu⟩ := hu
  cases ht : top.tag with
  | leaf =>
    simp only [ht] at hu
    exact walking_putOut h () u hu
  | internal =>
    simp only [ht] at hu
    exact walking_walkEdge h htop ht () u hu

theorem walking_getb {s : State} (h : Walking s) : Res.Ends (getb s) Walking := by
  intro _ u hu
  simp only [getb, Res.bind_eq_ok, getIn_eq_ok] at hu
  obtain ⟨y, s1, ⟨-, -, rfl⟩, n, s2, h2, hu⟩ := hu
  have hw : Walking s2 := by
    obtain rfl | rfl := store_state h2
    · exact h
    · exact { h with running := h.running.countDraw }
  cases hu
  exact { hw with running := hw.running.sameTree (by constructor <;> rfl) }

/-! ### HPAR -/

/-- What HPAR's last checks leave where they pass (R196, R199, R200). -/
theorem parseBits_eq_ok {n : Nat} {s u : State} (h : parseBits n s = .ok () u) :
    ∃ (vbits : Byte) (tbits : Nat),
      u = s.setWork (((s.work.setVbits vbits).setTbits (BitVec.ofNat 64 tbits)).setPbase
        (BitVec.ofNat 64 (Config.hdrLen n))) ∧
      vbits.toNat ≤ 8 ∧ tbits < 2 ^ 64 ∧ tbits ≤ availBits (s.inLen.toNat - Config.hdrLen n) vbits.toNat := by
  simp only [parseBits, Res.bind_eq_ok, getIn_eq_ok, putWork_eq, Res.bind_ok] at h
  obtain ⟨vbits, _, ⟨-, -, rfl⟩, h⟩ := h
  split at h
  · cases h
  · next hv =>
    obtain ⟨tbits, s2, h2, h⟩ := (Res.bind_eq_ok _).1 h
    obtain rfl := memReadIn_ok_state h2
    split at h
    · cases h
    · next ht =>
      cases h
      exact ⟨vbits, tbits, rfl, by omega, memReadIn_lt h2, Nat.not_lt.1 ht⟩

/-- `P` payload bytes supply at most `8 P` bits where the last one has at most 8 (R199). -/
theorem availBits_le {p v : Nat} (hv : v ≤ 8) : availBits p v ≤ 8 * p := by
  unfold availBits
  split
  · exact Nat.zero_le _
  · omega

theorem payloadInside_parseBits {n : Nat} {s u : State} (hl : Config.hdrLen n ≤ s.inLen.toNat)
    (h : parseBits n s = .ok () u) : PayloadInside u := by
  obtain ⟨v, tb, rfl, hv, htb, hle⟩ := parseBits_eq_ok h
  have := s.inLen.isLt
  have hp : (BitVec.ofNat 64 (Config.hdrLen n)).toNat = Config.hdrLen n := by
    rw [BitVec.toNat_ofNat]
    exact Nat.mod_eq_of_lt (by omega)
  have ht : (BitVec.ofNat 64 tb).toNat = tb := by
    rw [BitVec.toNat_ofNat]
    exact Nat.mod_eq_of_lt htb
  have hle' := hle.trans (availBits_le hv)
  constructor
  · simpa only [State.setWork_work, State.setWork_inLen, Work.setPbase_pbase, hp] using hl
  · simpa only [State.setWork_work, State.setWork_inLen, Work.setPbase_pbase, Work.setPbase_tbits,
      Work.setTbits_tbits, hp, ht] using hle'

theorem payloadInside_parsePairs {n : Nat} {s : State} : Res.Ends (parsePairs n s) PayloadInside := by
  unfold parsePairs
  split
  · exact ends_raise
  · next hl =>
    intro _ u hu
    obtain ⟨_, t, ht, hu⟩ := (Res.bind_eq_ok _).1 hu
    have hlen := ((framed_forEach _ framed_getPair s).ok () t ht).inLen
    split at hu
    · cases hu
    · exact payloadInside_parseBits (by rw [hlen]; exact Nat.not_lt.1 hl) hu

/-- HPAR's check of `total_bit_count` puts the payload inside IN (R199). -/
theorem payloadInside_hpar (s : State) : Res.Ends (hpar s) PayloadInside := by
  unfold hpar
  split
  · exact ends_raise
  · refine ends_bind (P := fun _ => True) (fun _ _ _ => trivial) fun v t _ => ?_
    rw [putWork_eq, Res.bind_ok]
    split
    · exact ends_raise
    · exact payloadInside_parsePairs

theorem QuietStable.hpar {P : State → Prop} (hP : QuietStable P) {s : State} (h : P s) : Res.Ends (hpar s) P := by
  unfold Machine.hpar
  split
  · exact ends_raise
  · refine ends_bind (ends_memReadIn h) fun v t h => ?_
    rw [putWork_eq, Res.bind_ok]
    split
    · exact ends_raise
    · unfold parsePairs
      split
      · exact ends_raise
      · refine ends_bind (ends_forEach (fun _ _ h => hP.getPair h) _ (hP.setWork h (by constructor <;> rfl))) ?_
        intro _ t h
        split
        · exact ends_raise
        · intro _ u hu
          obtain ⟨vbits, tbits, rfl, -⟩ := parseBits_eq_ok hu
          exact hP.setWork h (by constructor <;> rfl)

/-! ### What the invariant gives each operation -/

section Phases
variable {s u : State} {p : Byte} (h : Inv s) (hp : s.phase = p)
include h hp

theorem running_of_phase (hc : p ≠ 0x00 ∧ p ≠ 0x10 := by decide) : Running s := by
  subst hp
  exact running_of_cleared h hc

theorem outLen_of_phase (hm : p ∈ beforeOutput := by decide) : s.outLen = 0 := by
  subst hp
  exact h.nothingAppended hm

theorem encoding_of_phase (hm : p ∈ encodePhases := by decide) : s.op = 0x01 := by
  subst hp
  exact h.encodeOnly hm

theorem decoding_of_phase (hm : p ∈ decodePhases := by decide) : s.op = 0x02 := by
  subst hp
  exact h.decodeOnly hm

theorem rootInUse_of_phase (hm : p ∈ [0x17, 0x18, 0x1A, 0x1B, 0x1D, 0x1E, 0x21] := by decide) : RootInUse s.work := by
  subst hp
  exact h.operands.tree hm

theorem payload_of_phase (hm : p ∈ [0x12, 0x15, 0x16, 0x20, 0x1D, 0x1E, 0x21] := by decide) (h2 : s.op = 0x02) :
    PayloadInside s := by
  subst hp
  exact h.operands.payload h2 hm

theorem building_of_phase (hc : p ≠ 0x00 ∧ p ≠ 0x10 := by decide) (hm : p ∈ beforeOutput := by decide)
    (hl : p ∈ [0x12, 0x15, 0x16, 0x20, 0x1D, 0x1E, 0x21] := by decide) : Building s :=
  ⟨running_of_phase h hp hc, outLen_of_phase h hp hm, payload_of_phase h hp hl⟩

theorem walking_of_phase (hc : p ≠ 0x00 ∧ p ≠ 0x10 := by decide) (hm : p ∈ [0x1D, 0x1E] := by decide)
    (hd : p ∈ decodePhases := by decide)
    (ht : p ∈ [0x17, 0x18, 0x1A, 0x1B, 0x1D, 0x1E, 0x21] := by decide)
    (hl : p ∈ [0x12, 0x15, 0x16, 0x20, 0x1D, 0x1E, 0x21] := by decide) : Walking s where
  running := running_of_phase h hp hc
  decoding := decoding_of_phase h hp hd
  root := rootInUse_of_phase h hp ht
  cursor := h.operands.cursor (by rw [hp]; exact hm)
  payload := payload_of_phase h hp hl (decoding_of_phase h hp hd)

end Phases

end Sys2Proof.Proofs

namespace Sys2Proof.Proofs

open Sys2Proof.Machine Sys2Proof.Safety Sys2Proof.Reference

/-! ### What the host can do -/

/-- A move of the host other than the reset: it writes its own registers, IN, CMD and the latch of what it read. -/
structure HostMoved (s t : State) : Prop where
  only : t = { s with cmd := t.cmd, inLen := t.inLen, outCap := t.outCap, inOk := t.inOk, inBuf := t.inBuf,
                      hostData := t.hostData, draws := t.draws }
  canonical : s.inBuf.wf = true → t.inBuf.wf = true

theorem hostRegRead_moved {off : Nat} {s t : State} (h : hostRegRead off s = .next t) : HostMoved s t := by
  unfold hostRegRead at h
  split at h
  case h_6 | h_7 => cases h
  all_goals (cases h; exact ⟨rfl, id⟩)

theorem hostRegWrite_moved {off : Nat} {v : Word} {s t : State} (h : hostRegWrite off v s = .next t) :
    HostMoved s t := by
  unfold hostRegWrite at h
  split at h
  case h_1 =>
    split at h
    · cases h
      exact ⟨rfl, id⟩
    · cases h
  case h_5 | h_6 | h_7 => cases h
  all_goals (cases h; exact ⟨rfl, id⟩)

theorem hostAccess_outRead (a : Word) (s : State) :
    hostAccess (.outRead a) s =
      .next { (outByte a.toNat s).2 with hostData := (outByte a.toNat s).1.setWidth 64 } := rfl

/-- A read of OUT counts a drawn value at most (U5). -/
theorem outByte_state (a : Nat) (s : State) : (outByte a s).2 = s ∨ (outByte a s).2 = s.countDraw := by
  unfold outByte
  split
  · exact .inl rfl
  · exact .inr rfl

/-- Everything a move of the host can do. -/
theorem hostAccess_cases {a : HostAct} {s t : State} (h : hostAccess a s = .next t) :
    t = platformReset s ∨ HostMoved s t := by
  cases a with
  | regWrite off v => exact .inr (hostRegWrite_moved h)
  | regRead off => exact .inr (hostRegRead_moved h)
  | inWrite a b =>
    cases h
    exact .inr ⟨rfl, Memory.wf_write _ _⟩
  | outRead a =>
    rw [hostAccess_outRead] at h
    cases h
    obtain ho | ho := outByte_state a.toNat s
    · rw [ho]
      exact .inr ⟨rfl, id⟩
    · rw [ho]
      exact .inr ⟨rfl, id⟩
  | reset =>
    cases h
    exact .inl rfl

/-- Everything a step of the idle machine can do (R38). -/
theorem idleStep_cases {s t : State} (h : idleStep s = .next t) :
    t = s ∨ ∃ q, t = platformReset { s with hostQ := q } ∨ HostMoved { s with hostQ := q } t := by
  unfold idleStep at h
  split at h
  · cases h
    exact .inl rfl
  · next a q _ => exact .inr ⟨q, hostAccess_cases h⟩

theorem fetch_eq_none {s : State} (h : fetch s = none) : s.sub = none ∧ s.phase = 0x00 ∧ s.cmd = none := by
  unfold fetch at h
  split at h
  · cases h
  · next hs =>
    split at h
    · next hp =>
      split at h
      · cases h
      · next hc => exact ⟨hs, hp, hc⟩
    · cases h

/-- Without a call the sequencer looks at PHASE while a command runs, and else at CMD (R23, R26). -/
theorem fetch_of_noCall {s : State} {p : Port} {b : Byte} (hsub : s.sub = none) (h : fetch s = some (p, b)) :
    (p = .cmd ∧ s.phase = 0x00 ∧ s.cmd = some b) ∨ (p = .phase ∧ s.phase ≠ 0x00 ∧ s.phase = b) := by
  unfold fetch at h
  rw [hsub] at h
  dsimp only at h
  split at h
  · next hp =>
    split at h
    · next c hc =>
      cases h
      exact .inl ⟨rfl, hp, hc⟩
    · cases h
  · next hp =>
    cases h
    exact .inr ⟨rfl, hp, rfl⟩

/-! ### The sequencer's transitions keep the invariant -/

theorem inv_afterClr {s : State} (h : Running s) (hout : s.outLen = 0) : Inv (afterClr s) := by
  have hi := h.sameTree (w := s.work.setIptr 0) (by constructor <;> rfl)
  unfold afterClr
  split
  · next h1 =>
    split
    · next hl =>
      exact hi.inv_setPhase {
        encodeOnly := fun _ => h1, nothingAppended := fun _ => hout, inputByte := fun _ => hl }
    · exact inv_leafScan 0 ⟨hi, hout, fun h2 => absurd (h1.symm.trans h2) (by decide)⟩
  · next h1 =>
    split
    · exact inv_gotoEnd h (.inr ⟨rfl, hout⟩)
    · exact h.inv_setPhase {
        decodeOnly := fun _ => h.opLegal.resolve_left h1, nothingAppended := fun _ => hout }

theorem inv_afterFacc {s : State} (h : Running s) (h1 : s.op = 0x01) (hout : s.outLen = 0) : Inv (afterFacc s) := by
  have hi := h.sameTree (w := s.work.setIptr (s.work.iptr + 1)) (by constructor <;> rfl)
  unfold afterFacc
  dsimp only
  split
  · next hl =>
    exact hi.inv_setPhase {
      encodeOnly := fun _ => h1, nothingAppended := fun _ => hout, inputByte := fun _ => hl }
  · exact inv_leafScan 0 ⟨hi, hout, fun h2 => absurd (h1.symm.trans h2) (by decide)⟩

theorem inv_afterRoot {s : State} (h : Building s) (hroot : s.work.root = Config.nil ∨ RootInUse s.work) :
    Inv (afterRoot s) := by
  unfold afterRoot
  split
  · next h1 =>
    split
    · exact inv_gotoEnd h.running (.inr ⟨rfl, h.outLen⟩)
    · next hn =>
      exact h.running.inv_setPhase {
        encodeOnly := fun _ => h1, nothingAppended := fun _ => h.outLen, tree := fun _ => hroot.resolve_left hn }
  · next h1 =>
    exact h.running.inv_setPhase {
      decodeOnly := fun _ => h.running.opLegal.resolve_left h1, nothingAppended := fun _ => h.outLen,
      noTreeOrTree := fun _ => hroot, payload := fun h2 _ => h.payload h2 }

/-- PAYLOAD's loop: PUSHC is entered with a byte of IN at IPTR, FIN behind the last one (R180). -/
theorem inv_payloadLoop {s : State} (h : Running s) (h1 : s.op = 0x01) (hroot : RootInUse s.work) :
    Inv (if s.work.iptr.toNat < s.inLen.toNat then s.setPhase 0x1A else s.setPhase 0x1B) := by
  split
  · next hl =>
    exact h.inv_setPhase { encodeOnly := fun _ => h1, inputByte := fun _ => hl, tree := fun _ => hroot }
  · exact h.inv_setPhase { encodeOnly := fun _ => h1, tree := fun _ => hroot }

theorem inv_afterHser {s : State} (h : Running s) (h1 : s.op = 0x01) (hroot : RootInUse s.work) :
    Inv (afterHser s) :=
  inv_payloadLoop (h.sameTree (w := s.work.setIptr 0) (by constructor <;> rfl)) h1 hroot

theorem inv_afterPushc {s : State} (h : Running s) (h1 : s.op = 0x01) (hroot : RootInUse s.work) :
    Inv (afterPushc s) :=
  inv_payloadLoop (h.sameTree (w := s.work.setIptr (s.work.iptr + 1)) (by constructor <;> rfl)) h1 hroot

/-! ### Every micro-operation keeps the invariant -/

section Rules
variable {s : State} (h : Inv s)
include h

theorem inv_clr (hp : s.phase = 0x10) : Res.Ends (clr s) fun u => Inv (afterClr u) :=
  ends_ok (inv_afterClr (running_clr h (by rw [hp]; decide)) rfl)

theorem inv_facc (hp : s.phase = 0x11) : Res.Ends (facc s) fun u => Inv (afterFacc u) := fun _ u hu =>
  inv_afterFacc (appendStable_running.facc (running_of_phase h hp) () u hu)
    (((framed_facc s).ok () u hu).op.trans (encoding_of_phase h hp))
    (quietStable_outLen.facc (outLen_of_phase h hp) () u hu)

theorem inv_leaf (hp : s.phase = 0x12) : Res.Ends (leaf s) fun u => Inv (afterLeaf u) := by
  unfold leaf scanSymbol
  rw [if_pos (h.operands.symbol hp)]
  exact fun _ u hu => inv_leafScan _
    (building_addNode (building_of_phase h hp) (fun ht => by cases ht) () u hu)

theorem inv_merge (hp : s.phase = 0x15) : Res.Ends (merge s) fun u => Inv (afterMerge u) := fun _ u hu =>
  inv_mergeOrRoot (building_merge (building_of_phase h hp) () u hu)

theorem inv_root (hp : s.phase = 0x16) : Res.Ends (root s) fun u => Inv (afterRoot u) := by
  have hb := building_of_phase h hp
  unfold root
  split
  · exact ends_ok (inv_afterRoot (hb.setWork hb.running.heap hb.running.arena rfl rfl) (.inl rfl))
  · intro _ u hu
    obtain ⟨i, t, ht, hu⟩ := (Res.bind_eq_ok _).1 hu
    obtain ⟨hbt, hi, hn⟩ := building_heapExtract hb ht
    cases hu
    exact inv_afterRoot (hbt.setWork hbt.running.heap hbt.running.arena rfl rfl) (.inr (by rw [← hn] at hi; exact hi))

theorem inv_cgen (hp : s.phase = 0x17) : Res.Ends (cgen s) fun u => Inv (afterCgen u) := fun _ u hu =>
  (appendStable_running.cgen (running_of_phase h hp) () u hu).inv_setPhase {
    encodeOnly := fun _ => ((framed_cgen s).ok () u hu).op.trans (encoding_of_phase h hp),
    nothingAppended := fun _ => quietStable_outLen.cgen (outLen_of_phase h hp) () u hu,
    tree := fun _ => appendStable_root.cgen (rootInUse_of_phase h hp) () u hu }

theorem inv_hser (hp : s.phase = 0x18) : Res.Ends (hser s) fun u => Inv (afterHser u) := fun _ u hu =>
  inv_afterHser (appendStable_running.hser (running_of_phase h hp) () u hu)
    (((framed_hser s).ok () u hu).op.trans (encoding_of_phase h hp))
    (appendStable_root.hser (rootInUse_of_phase h hp) () u hu)

theorem inv_pushc (hp : s.phase = 0x1A) : Res.Ends (pushc s) fun u => Inv (afterPushc u) := fun _ u hu =>
  inv_afterPushc (appendStable_running.pushc (running_of_phase h hp) () u hu)
    (((framed_pushc s).ok () u hu).op.trans (encoding_of_phase h hp))
    (appendStable_root.pushc (rootInUse_of_phase h hp) () u hu)

theorem inv_fin (hp : s.phase = 0x1B) : Res.Ends (fin s) fun u => Inv (afterFin u) := fun _ u hu =>
  inv_gotoEnd (appendStable_running.fin (running_of_phase h hp) () u hu) (.inl rfl)

theorem inv_hpar (hp : s.phase = 0x1C) : Res.Ends (hpar s) fun u => Inv (afterHpar u) := fun _ u hu =>
  inv_leafScan 0 ⟨appendStable_running.hpar (running_of_phase h hp) () u hu,
    quietStable_outLen.hpar (outLen_of_phase h hp) () u hu, fun _ => payloadInside_hpar s () u hu⟩

theorem inv_getb (hp : s.phase = 0x1D) : Res.Ends (getb s) fun u => Inv (afterGetb u) := fun _ u hu =>
  have hw := walking_getb (walking_of_phase h hp) () u hu
  hw.running.inv_setPhase {
    decodeOnly := fun _ => hw.decoding, tree := fun _ => hw.root, cursor := fun _ => hw.cursor,
    payload := fun _ _ => hw.payload }

theorem inv_walk1 (hp : s.phase = 0x1E) : Res.Ends (walk1 s) fun u => Inv (afterWalk1 u) := fun _ u hu =>
  inv_walkLoop (walking_walk1 (walking_of_phase h hp) () u hu)

theorem inv_wbeg (hp : s.phase = 0x20) : Res.Ends (wbeg s) fun u => Inv (afterWbeg u) := by
  have hr := running_of_phase h hp
  have h2 := decoding_of_phase h hp
  unfold wbeg afterWbeg
  split
  · next hn =>
    split
    · refine ends_ok ?_
      rw [if_pos hn]
      exact inv_gotoEnd hr (.inr ⟨rfl, outLen_of_phase h hp⟩)
    · exact ends_raise
  · next hn =>
    have hroot := (h.operands.noTreeOrTree hp).resolve_left hn
    have hw : Walking (s.setWork (s.work.setCursor s.work.root)) :=
      ⟨hr.sameTree (by constructor <;> rfl), h2, hroot, cursorOk_root hroot, payload_of_phase (s := s) h hp (by decide) h2⟩
    refine ends_ok ?_
    rw [State.setWork_work, Work.setCursor_root, if_neg hn]
    exact inv_walkLoop hw

theorem inv_wfin (hp : s.phase = 0x21) : Res.Ends (wfin s) fun u => Inv (afterWfin u) := by
  unfold wfin
  split
  · exact ends_ok (inv_gotoEnd (running_of_phase h hp) (.inl rfl))
  · exact ends_raise

/-- A micro-operation keeps the invariant where its rule and its transition do: an abort always does. -/
theorem inv_settle {x : Byte} {r : Res Unit} {k : State → State} {t : State} (hf : r.Framed s)
    (hk : Res.Ends r fun u => Inv (k u)) (ht : settle x r k = .next t) : Inv t := by
  obtain ⟨u, hu, rfl⟩ | ⟨e, u, hu, rfl⟩ := (settle_eq_next _ _).1 ht
  · exact hk () u hu
  · have hsame := hf.raise e u hu
    exact inv_abort e x (hsame.inBuf ▸ h.inCanonical) rfl (hsame.sub.trans h.noCall)

/-- The micro-operation in PHASE keeps the invariant. -/
theorem inv_exec_micro {i : Instr} {t : State} (hi : i.opClass = .micro) (hp : s.phase = opcode i)
    (ht : exec i s = .next t) : Inv t := by
  cases i with
  | clr => exact inv_settle (x := 0x10) h (framed_clr s) (inv_clr h hp) ht
  | facc => exact inv_settle h (framed_facc s) (inv_facc h hp) ht
  | leaf => exact inv_settle h (framed_leaf s) (inv_leaf h hp) ht
  | merge => exact inv_settle h (framed_merge s) (inv_merge h hp) ht
  | root => exact inv_settle h (framed_root s) (inv_root h hp) ht
  | cgen => exact inv_settle h (framed_cgen s) (inv_cgen h hp) ht
  | hser => exact inv_settle h (framed_hser s) (inv_hser h hp) ht
  | pushc => exact inv_settle h (framed_pushc s) (inv_pushc h hp) ht
  | fin => exact inv_settle h (framed_fin s) (inv_fin h hp) ht
  | hpar => exact inv_settle h (framed_hpar s) (inv_hpar h hp) ht
  | getb => exact inv_settle h (framed_getb s) (inv_getb h hp) ht
  | walk1 => exact inv_settle h (framed_walk1 s) (inv_walk1 h hp) ht
  | wbeg => exact inv_settle h (framed_wbeg s) (inv_wbeg h hp) ht
  | wfin => exact inv_settle h (framed_wfin s) (inv_wfin h hp) ht
  | endCmd =>
    cases ht
    exact inv_complete h hp
  | encode | decode | hins | hext | push1 => cases hi

end Rules

/-! ### Command issue and the host keep the invariant -/

/-- Command issue from the idle machine (R100). -/
theorem inv_issue {s t : State} {c : Byte} (h : Inv s) (hc : c = 0x01 ∨ c = 0x02)
    (ht : issue c { s with cmd := none } = .next t) : Inv t := by
  obtain ⟨e, rfl⟩ | ⟨hl, rfl⟩ := issue_cases ht
  · exact inv_abort e c h.inCanonical h.outCanonical h.noCall
  · have hop : c ≠ 0x00 := by
      obtain rfl | rfl := hc
      · decide
      · decide
    exact {
      inCanonical := h.inCanonical
      outCanonical := h.outCanonical
      phaseLegal := (by decide : (0x10 : Byte) ∈ legalPhases)
      noCall := h.noCall
      idleIffNoOp := iff_of_false (by decide : (0x10 : Byte) ≠ 0x00) hop
      opLegal := .inr hc
      encodeOnly := fun hm => absurd hm (by decide : (0x10 : Byte) ∉ encodePhases)
      decodeOnly := fun hm => absurd hm (by decide : (0x10 : Byte) ∉ decodePhases)
      notIssuedTwice := fun _ => rfl
      lengthChecked := fun _ => hl
      statusReserved := h.statusReserved
      causeLegal := h.causeLegal
      failedNoOutput := fun h0 => absurd h0 (by decide : (0x10 : Byte) ≠ 0x00)
      emptyNoOutput := fun h0 => absurd h0 (by decide : (0x10 : Byte) ≠ 0x00)
      endCause := fun h0 => absurd h0 (by decide : (0x10 : Byte) ≠ 0x1F)
      nothingAppended := fun hm => absurd hm (by decide : (0x10 : Byte) ∉ beforeOutput)
      withinCapacity := fun hcl => absurd rfl hcl.2
      heap := fun hcl => absurd rfl hcl.2
      arena := fun hcl => absurd rfl hcl.2
      operands := operandsOk_of_free (.inr rfl) }

theorem inv_idleStep {s t : State} (h : Inv s) (hp : s.phase = 0x00) (ht : idleStep s = .next t) : Inv t := by
  obtain rfl | ⟨q, rfl | hm⟩ := idleStep_cases ht
  · exact h
  · exact inv_of_idle (s := platformReset _) rfl rfl rfl rfl rfl
      (by decide : statusReservedZero 0 = true) (by decide : (statusCause 0).toNat ≤ 6) (fun _ => rfl) (fun _ => rfl)
  · have hin := hm.canonical h.inCanonical
    rw [hm.only]
    exact inv_of_idle hp (h.idleIffNoOp.1 hp) hin h.outCanonical h.noCall h.statusReserved h.causeLegal
      (h.failedNoOutput hp) (h.emptyNoOutput hp)

/-- Settles O49: a step is a move of the idle host, a command issue or the micro-operation in PHASE, and each keeps the
invariant. -/
theorem stepKeepsInvariant : Obligations.StepKeepsInvariant := by
  unfold Obligations.StepKeepsInvariant
  intro s t h hs
  obtain ⟨hf, hidle⟩ | ⟨p, i, hf, hclass, hx⟩ := step_cases hs
  · exact inv_idleStep h (fetch_eq_none hf).2.1 hidle
  · obtain ⟨rfl, hp, -⟩ | ⟨rfl, -, hp⟩ := fetch_of_noCall h.noCall hf
    · rw [exec_host_eq_issue hclass] at hx
      refine inv_issue h ?_ hx
      cases i with
      | encode => exact .inl rfl
      | decode => exact .inr rfl
      | _ => cases hclass
    · exact inv_exec_micro h hclass hp hx

end Sys2Proof.Proofs

namespace Sys2Proof.Proofs

open Sys2Proof.Machine Sys2Proof.Safety Sys2Proof.Reference

/-! ### Reset, the idle machine and the step -/

/-- Settles O48: HUFFCORE is idle after reset with every register of the host interface 0. -/
theorem resetMeetsInvariant : Obligations.ResetMeetsInvariant := by
  unfold Obligations.ResetMeetsInvariant
  refine ⟨inv_of_idle rfl rfl rfl rfl rfl (by decide) (by decide) (fun _ => rfl) (fun _ => rfl), ?_⟩
  constructor <;> (intro h; exact absurd h (by decide))

theorem fetch_idle {s : State} (hp : s.phase = 0x00) (hsub : s.sub = none) (hcmd : s.cmd = none) : fetch s = none := by
  simp [fetch, hp, hsub, hcmd]

theorem step_idle {s : State} (hp : s.phase = 0x00) (hsub : s.sub = none) (hcmd : s.cmd = none) :
    step s = idleStep s := by
  simp [step, fetch_idle hp hsub hcmd]

/-- The idle machine stays idle and keeps MAX_IN_LEN, whatever the host does (R36, R38). -/
theorem idleStep_keeps {s t : State} (h : idleStep s = .next t) :
    (s.phase = 0x00 → t.phase = 0x00) ∧ t.maxInLen = s.maxInLen := by
  obtain rfl | ⟨q, rfl | hm⟩ := idleStep_cases h
  · exact ⟨id, rfl⟩
  · exact ⟨fun _ => rfl, rfl⟩
  · rw [hm.only]
    exact ⟨id, rfl⟩

theorem consume_maxInLen (p : Port) (s : State) : (consume p s).maxInLen = s.maxInLen := by cases p <;> rfl

theorem step_maxInLen {s t : State} (h : step s = .next t) : t.maxInLen = s.maxInLen := by
  obtain ⟨-, hidle⟩ | ⟨p, i, -, -, hx⟩ := step_cases h
  · exact (idleStep_keeps hidle).2
  · exact (exec_hostSideKept hx).maxInLen.trans (consume_maxInLen p s)

/-- Settles O5: a step of the idle machine is a move of the host, and no operation writes MAX_IN_LEN. -/
theorem idleUntilHostActs : Obligations.IdleUntilHostActs := by
  unfold Obligations.IdleUntilHostActs
  refine ⟨fun s hp hsub hcmd hq => ?_, fun s t hp hsub hcmd h => ?_, fun s t h => ?_, fun s t => step_maxInLen⟩
  · rw [step_idle hp hsub hcmd, idleStep, hq]
  · rw [step_idle hp hsub hcmd] at h
    exact (idleStep_keeps h).1 hp
  · cases h
    exact ⟨rfl, rfl, rfl, rfl, rfl, rfl, rfl, rfl⟩

/-- Settles O6: the step decodes the byte at the port the sequencer looks at, and takes it from there. -/
theorem stepRunsDecodedOperation : Obligations.StepRunsDecodedOperation := by
  unfold Obligations.StepRunsDecodedOperation
  refine ⟨fun s p b i hf hd hw => ?_, fun s hsub hp => ⟨?_, rfl⟩, fun s c hsub hp hc => ⟨?_, rfl⟩,
    fun s b hsub => ⟨?_, rfl⟩⟩
  · simp [step, hf, hd, hw]
  · simp [fetch, hsub, show s.phase ≠ 0#8 from hp]
  · simp [fetch, hsub, hp, hc]
  · simp [fetch, hsub]

/-! ### The host interface -/

/-- Settles O8: each access is one field of the state, read or written. -/
theorem registerWindowAccesses : Obligations.RegisterWindowAccesses := by
  unfold Obligations.RegisterWindowAccesses
  refine fun s v => ⟨rfl, rfl, rfl, rfl, rfl, rfl, rfl, ⟨_, rfl, ?_, rfl⟩, fun hv => ⟨_, if_pos hv, rfl, ?_⟩⟩
  · exact BitVec.toNat_setWidth 1 v
  · exact congrArg some (BitVec.ofNat_toNat 8 v).symm

/-- The offset of each register of the window (R28). -/
def hostRegOffset : HostReg → Nat
  | .cmd => 0x00
  | .status => 0x04
  | .inLen => 0x08
  | .outLen => 0x10
  | .outCap => 0x18
  | .inOk => 0x20

theorem offset_of_hostRegAt {off : Nat} {r : HostReg} (h : hostRegAt off = some r) : off = hostRegOffset r := by
  unfold hostRegAt at h
  split at h
  case h_7 => cases h
  all_goals (cases h; rfl)

theorem hostRegRead_refused {off : Nat} (s : State) (h : off ∉ [0x04, 0x08, 0x10, 0x18, 0x20]) :
    hostRegRead off s = .refused (.hostAccess off) := by
  unfold hostRegRead
  cases hr : hostRegAt off with
  | none => rfl
  | some r =>
    obtain rfl := offset_of_hostRegAt hr
    cases r with
    | cmd => rfl
    | status | inLen | outLen | outCap | inOk => exact absurd (by decide) h

theorem hostRegWrite_refused {off : Nat} (v : Word) (s : State) (h : off ∉ [0x00, 0x08, 0x18, 0x20]) :
    hostRegWrite off v s = .refused (.hostAccess off) := by
  unfold hostRegWrite
  cases hr : hostRegAt off with
  | none => rfl
  | some r =>
    obtain rfl := offset_of_hostRegAt hr
    cases r with
    | status | outLen => rfl
    | cmd | inLen | outCap | inOk => exact absurd (by decide) h

/-- Settles O9: at any other offset stands no register, or one that does not take the access. -/
theorem otherWindowAccessesRefused : Obligations.OtherWindowAccessesRefused := by
  unfold Obligations.OtherWindowAccessesRefused
  exact fun s off v => ⟨hostRegRead_refused s, hostRegWrite_refused v s⟩

/-- Settles O10: a byte placed in IN is read back and no other changes; a read of OUT below OUT_LEN gives its byte. -/
theorem bufferAccesses : Obligations.BufferAccesses := by
  unfold Obligations.BufferAccesses
  refine ⟨fun s a b => ⟨_, rfl, Memory.read_write_same _ _ _, fun a' ha => Memory.read_write_ne _ b ha, rfl⟩,
    fun s a b ha hb => ?_⟩
  have ho : outByte a.toNat s = (b, s) := by simp [outByte, ha, hb]
  refine ⟨{ s with hostData := b.setWidth 64 }, by rw [hostAccess_outRead, ho], ?_, rfl⟩
  have := b.isLt
  simp only [BitVec.toNat_setWidth]
  omega

/-! ### END, the abort sequence and STATUS -/

/-- Settles O17: END writes the STATUS word of its operand and OP, and PHASE and OP. -/
theorem endCompletesCommand : Obligations.EndCompletesCommand := by
  unfold Obligations.EndCompletesCommand
  intro s
  refine ⟨complete s.endArg s, rfl, rfl, rfl, ?_⟩
  rw [complete_status]
  refine ⟨statusDone_end .., statusFail_end .., statusCause_end .., statusEmpty_end .., statusDetail_end ..,
    statusStage_end .., statusLastcmd_end .., statusReservedZero_end .., ⟨rfl, fun _ => rfl⟩,
    ⟨fun _ => rfl, rfl, rfl, rfl, rfl, rfl, rfl⟩, rfl, ?_⟩
  refine ⟨?_, ?_, ?_, ?_⟩
  all_goals
    intro hc ho
    rw [hc, ho]
    decide

/-- Settles O43: an abort from a state with the same OP and input side writes the STATUS word of its error. -/
theorem abortSequence : Obligations.AbortSequence := by
  unfold Obligations.AbortSequence
  intro e stage s u k hop hin
  refine ⟨_, settle_raise stage e u k, abort_abortedTo e stage hop hin, ?_⟩
  have hst : (abort e stage u.disownOut).status = abortStatus e stage s.op := congrArg (abortStatus e stage) hop
  rw [hst]
  refine ⟨statusDone_abort .., statusFail_abort .., statusEmpty_abort .., statusCause_abort .., statusDetail_abort ..,
    statusStage_abort .., statusLastcmd_abort .., statusReservedZero_abort .., ?_⟩
  rw [statusCause_abort, statusDetail_abort]
  cases e <;> decide

theorem movesOn_status {s t : State} (h : MovesOn s t) : t.status = s.status := by rw [h.only]

theorem idle_of_abort {e : Raise} {x : Byte} {t u : State} (h : t = abort e x u) :
    (∃ (e : Raise) (stage op : Byte), t.status = abortStatus e stage op) ∧ t.phase = 0x00 ∧ t.op = 0x00 ∧
      t.outLen = 0 := by
  rw [h]
  exact ⟨⟨e, x, u.op, rfl⟩, rfl, rfl, rfl⟩

/-- Settles O44: an operation that does not abort stays inside a frame without STATUS, and so does the sequencer. -/
theorem statusWrittenOnlyAtTheEnd : Obligations.StatusWrittenOnlyAtTheEnd := by
  unfold Obligations.StatusWrittenOnlyAtTheEnd
  intro i s t hne h
  cases hi : i.opClass with
  | host =>
    rw [exec_host_eq_issue hi] at h
    obtain ⟨e, ht⟩ | ⟨-, rfl⟩ := issue_cases h
    · exact .inr (idle_of_abort ht)
    · exact .inl rfl
  | micro =>
    obtain ⟨u, hu, ht⟩ | ⟨e, u, -, ht⟩ := exec_micro_cases hi hne h
    · exact .inl ((movesOn_status ht).trans hu.status)
    · exact .inr (idle_of_abort ht)
  | subroutine =>
    obtain ⟨u, hu, ht⟩ | ⟨e, u, -, ht⟩ := exec_subroutine_cases hi h
    · exact .inl ((congrArg State.status ht).trans hu.status)
    · exact .inr (idle_of_abort ht)

/-- Settles O45: a running command ends only by END, which signals no failure, or by the abort sequence of the
micro-operation in PHASE. -/
theorem stageIsRunningOperation : Obligations.StageIsRunningOperation := by
  unfold Obligations.StageIsRunningOperation
  intro s t hsub hbusy hs hidle hfail
  obtain ⟨hf, -⟩ | ⟨p, i, hf, hclass, hx⟩ := step_cases hs
  · exact absurd (fetch_eq_none hf).2.1 hbusy
  · obtain ⟨-, hp, -⟩ | ⟨rfl, -, hp⟩ := fetch_of_noCall hsub hf
    · exact absurd hp hbusy
    · rw [hp]
      by_cases hne : i = .endCmd
      · subst hne
        cases hx
        rw [complete_status, statusFail_end] at hfail
        exact absurd hfail (by decide)
      · obtain ⟨u, -, ht⟩ | ⟨e, u, -, rfl⟩ := exec_micro_cases hclass hne hx
        · exact absurd hidle ht.busy
        · rw [abort_status, statusStage_abort]

end Sys2Proof.Proofs

namespace Sys2Proof.Proofs

open Sys2Proof.Machine Sys2Proof.Safety Sys2Proof.Reference

/-! ### The input side -/

theorem HostSideKept.sameInputSide {s t : State} (h : HostSideKept s t) : SameInputSide s t :=
  ⟨fun a => congrArg (Memory.read · a) h.inBuf, h.inLen, h.outCap, h.inOk, h.hostQ, h.hostData, h.maxInLen⟩

/-- Settles O11: while a command runs the step is the micro-operation in PHASE, and no operation writes what belongs to
the host. -/
theorem hostWaitsWhileCommandRuns : Obligations.HostWaitsWhileCommandRuns := by
  unfold Obligations.HostWaitsWhileCommandRuns
  intro s t busy hsub hs
  obtain ⟨hf, -⟩ | ⟨p, i, hf, -, hx⟩ := step_cases hs
  · exact absurd (fetch_eq_none hf).2.1 busy
  · obtain ⟨-, hp, -⟩ | ⟨rfl, -, -⟩ := fetch_of_noCall hsub hf
    · exact absurd hp busy
    · have hk : HostSideKept s t := exec_hostSideKept hx
      exact ⟨hk.sameInputSide, hk.cmd⟩

/-- Settles O12: every operation is a framed rule, a transition of the sequencer, an abort or a command issue, and none
of them writes the host's side. -/
theorem inputSideNeverWritten : Obligations.InputSideNeverWritten := by
  unfold Obligations.InputSideNeverWritten
  intro i s t hx
  have hk := exec_hostSideKept hx
  exact ⟨hk.inBuf, hk.inLen, hk.outCap, hk.inOk⟩

/-- A read at or beyond IN_LEN has no meaning (R57). -/
theorem getIn_outOfRange {a : Nat} {s : State} (h : s.inLen.toNat ≤ a) : getIn a s = .stop (.inOutOfRange a) :=
  if_neg (Nat.not_lt.2 h)

/-- Settles O38: FACC, PUSHC and GETB begin with their read of IN, and a rule that stops is a fault. -/
theorem readBeyondInputFaults : Obligations.ReadBeyondInputFaults := by
  unfold Obligations.ReadBeyondInputFaults
  refine fun s => ⟨fun h => ⟨?_, ?_⟩, fun h => ?_⟩
  · have hr : facc s = .stop (.inOutOfRange s.work.iptr.toNat) := by rw [facc, getIn_outOfRange h, Res.bind_stop]
    exact congrArg (settle 0x11 · afterFacc) hr
  · have hr : pushc s = .stop (.inOutOfRange s.work.iptr.toNat) := by rw [pushc, getIn_outOfRange h, Res.bind_stop]
    exact congrArg (settle 0x1A · afterPushc) hr
  · have hr : getb s = .stop (.inOutOfRange (s.work.pbase.toNat + s.work.rbits.toNat / 8)) := by
      rw [getb, getIn_outOfRange h, Res.bind_stop]
    exact congrArg (settle 0x1D · afterGetb) hr

/-! ### Where PUSHC has room -/

/-- Room for the bytes that a writer with `n` bits completes up to bit `m`: there are none, or the last one lies below
OUT_CAP (R58). -/
def HasRoom (s : State) (base n m : Nat) : Prop := m / 8 = n / 8 ∨ base + m / 8 ≤ s.outCap.toNat

section Pushc
variable {s : State} {base : Nat} {bits : BitString} (h : WriterHolds s base bits)
include h

/-- PUSH1 completes exactly where its byte, if it completes one, has room (R58, R173). -/
theorem pushBit_room (b : Bit) (hw : bits.length + 1 < 2 ^ 64) :
    (HasRoom s base bits.length (bits.length + 1) ∧
      ∃ t, pushBit b s = .ok () t ∧ WriterRun s t ∧ t.work.iptr = s.work.iptr ∧ WriterHolds t base (bits ++ [b])) ∨
    (¬ HasRoom s base bits.length (bits.length + 1) ∧ ∃ u, pushBit b s = .raise .ioOutFull u) := by
  have hh := h.held
  have ha := h.appended
  unfold HasRoom
  by_cases h7 : bits.length % 8 < 7
  · exact .inl ⟨by omega, pushBit_held h b hw h7⟩
  · obtain hr | hr := Nat.lt_or_ge s.outLen.toNat s.outCap.toNat
    · exact .inl ⟨by omega, pushBit_emits h b hw (by omega) hr⟩
    · exact .inr ⟨by omega, _, (pushBit_eq (by omega) (by rw [h.count]; exact hw)).trans
        (emitFull_no_room (shiftedWork_held_full h b (by omega)) hr)⟩

/-- Pushing a code completes exactly where all the bytes it completes have room (R58, R176). -/
theorem pushBits_room (code : BitString) (hw : bits.length + code.length < 2 ^ 64) :
    (HasRoom s base bits.length (bits.length + code.length) ∧
      ∃ t, forEach code pushBit s = .ok () t ∧ WriterRun s t ∧ t.work.iptr = s.work.iptr ∧
        WriterHolds t base (bits ++ code)) ∨
    (¬ HasRoom s base bits.length (bits.length + code.length) ∧
      ∃ u, forEach code pushBit s = .raise .ioOutFull u) := by
  induction code generalizing s bits with
  | nil => exact .inl ⟨.inl rfl, s, rfl, .refl s, rfl, by simpa using h⟩
  | cons b code ih =>
    rw [List.length_cons] at hw ⊢
    rw [forEach_cons]
    obtain ⟨hr, t, ht, hrun, hit, hwr⟩ | ⟨hr, u, hu⟩ := pushBit_room h b (by omega)
    · have hlen : (bits ++ [b]).length = bits.length + 1 := by simp
      have := ih hwr (by omega)
      rw [hlen, List.append_assoc, List.singleton_append] at this
      rw [ht, Res.bind_ok]
      unfold HasRoom at hr this ⊢
      rw [hrun.outCap] at this
      refine this.imp (fun ⟨hr', v, hv, hrun', hit', hwr'⟩ =>
        ⟨by omega, v, hv, hrun.trans hrun', hit'.trans hit, hwr'⟩) fun ⟨hr', hu⟩ => ⟨by omega, hu⟩
    · unfold HasRoom at hr ⊢
      exact .inr ⟨by omega, u, by rw [hu, Res.bind_raise]⟩

/-- PUSHC's move to the next byte of IN leaves what the writer holds (R180). -/
theorem writerHolds_next (w : Word) (p : Byte) :
    WriterHolds ((s.setWork (s.work.setIptr w)).setPhase p) base bits :=
  ⟨h.count, h.held, h.appended, h.full, h.rest⟩

end Pushc

theorem pushc_eq {s : State} {b : Byte} {code : BitString} (hi : s.work.iptr.toNat < s.inLen.toNat)
    (hb : s.inBuf.read s.work.iptr.toNat = some b) (hcode : s.work.codeAt b = some code) :
    pushc s = forEach code pushBit s := by
  rw [pushc, getIn_of_read hi hb, Res.bind_ok, Work.cbits, hcode]

theorem exec_pushc (s : State) : exec .pushc s = settle 0x1A (pushc s) afterPushc := rfl

/-- Settles O30: the code's bits are pushed one by one, each as PUSH1 does it; the first byte without room raises, and
behind the last bit the sequencer moves IPTR on. -/
theorem pushcAppendsCode : Obligations.PushcAppendsCode := by
  unfold Obligations.PushcAppendsCode
  intro s base bits code b h hi hb hcode hw
  have hx := pushc_eq hi hb hcode
  rw [exec_pushc]
  obtain ⟨hr, u, hu, hrun, hit, hwr⟩ | ⟨hr, u, hu⟩ := pushBits_room h code hw
  · refine ⟨fun _ => ?_, fun hlt hc => absurd hr (by unfold HasRoom; omega)⟩
    have hok := hx.trans hu
    have hout := (framed_pushc s).ok () u hok
    have hsucc : u.work.iptr.toNat + 1 ≤ u.inLen.toNat := by rw [hit, hrun.inLen]; exact hi
    have hafter := afterPushc_eq hsucc
    rw [hit, hrun.inLen] at hafter
    rw [hok, settle_ok, hafter]
    refine ⟨_, rfl, writerHolds_next hwr _ _, hrun.only, iptr_add_one hi, ?_, hout.sameInputSide, hout.sameControl, rfl⟩
    rw [State.setPhase_work, State.setWork_work, hrun.work]
    rfl
  · refine ⟨fun hroom => absurd hroom hr, fun _ _ => ?_⟩
    have hraise := hx.trans hu
    exact ⟨_, by rw [hraise, settle_raise], ((framed_pushc s).raise _ u hraise).abortedTo _ _⟩

/-! ### FIN -/

theorem exec_fin (s : State) : exec .fin s = settle 0x1B (fin s) afterFin := rfl

/-- FIN leaves the writer empty: with no bit held it already is (R171, R177). -/
theorem fin_work {s t : State} {base : Nat} {bits : BitString} (h : WriterHolds s base bits)
    (hbits : s.work.wbits = s.work.tbits) (hf : fin s = .ok () t) : t.work = s.work.setAcc 0 0 := by
  by_cases h0 : bits.length % 8 = 0
  · rw [fin_none_held h h0 hbits] at hf
    cases hf
    have hheld : s.work.held = 0 := BitVec.eq_of_toNat_eq (h.held.trans h0)
    have hacc : s.work.acc = 0 := BitVec.eq_of_toNat_eq (by
      rw [h.rest, List.drop_eq_nil_of_le (by omega)]
      rfl)
    rw [← hacc, ← hheld]
    rfl
  · obtain hr | hr := Nat.lt_or_ge s.outLen.toNat s.outCap.toNat
    · rw [fin_of_room h h0 hbits hr] at hf
      cases hf
      rfl
    · rw [fin_no_room h h0 hr] at hf
      cases hf

/-- Settles O31: with room for the last byte FIN completes, and the sequencer goes on to END(0). -/
theorem finPadsLastByte : Obligations.FinPadsLastByte := by
  unfold Obligations.FinPadsLastByte
  intro s base bits h hbits hroom
  rw [exec_fin]
  obtain ⟨t, ht, hout, honly, hlen, hpay⟩ | ⟨hfull, -⟩ := fin_cases h hbits
  · have hwork := fin_work h hbits ht
    exact ⟨gotoEnd 0 t, by rw [ht, settle_ok, afterFin], hlen, hpay, hwork, honly, hout.sameInputSide,
      hout.sameControl, rfl, rfl⟩
  · omega

/-- The byte FIN writes is there in every state, at the cost of a drawn value at most (R177). -/
theorem paddedByte_ok (s : State) : ∃ b u, paddedByte s = .ok b u ∧ (u = s ∨ u = s.countDraw) := by
  unfold paddedByte
  split
  · exact ⟨_, _, rfl, .inl rfl⟩
  · exact ⟨_, _, rfl, .inr rfl⟩

/-- The held bits find OUT full (R58, R177). -/
theorem emitHeld_full {s : State} (hh : 0 < s.work.held.toNat) (hc : s.outCap.toNat ≤ s.outLen.toNat) :
    ∃ u, emitHeld s = .raise .ioOutFull u := by
  obtain ⟨b, u, hb, hu⟩ := paddedByte_ok s
  have hcu : u.outCap.toNat ≤ u.outLen.toNat := by
    obtain rfl | rfl := hu
    · exact hc
    · exact hc
  exact ⟨u, by rw [emitHeld, if_pos hh, hb, Res.bind_ok, putOut_full hcu, Res.bind_raise]⟩

/-- The held bits are written, or there are none; WBITS and TBITS stay (R177). -/
theorem emitHeld_ok {s : State} (h : s.work.held.toNat = 0 ∨ s.outLen.toNat < s.outCap.toNat) :
    ∃ u, emitHeld s = .ok () u ∧ u.work.wbits = s.work.wbits ∧ u.work.tbits = s.work.tbits := by
  by_cases hh : 0 < s.work.held.toNat
  · obtain ⟨b, u, hb, hu⟩ := paddedByte_ok s
    have hkept : u.work = s.work ∧ u.outLen.toNat < u.outCap.toNat := by
      have hr := h.resolve_left hh.ne'
      obtain rfl | rfl := hu
      · exact ⟨rfl, hr⟩
      · exact ⟨rfl, hr⟩
    obtain ⟨hwork, hr⟩ := hkept
    refine ⟨_, by rw [emitHeld, if_pos hh, hb, Res.bind_ok, putOut_of_room hr, Res.bind_ok, emptyAcc, putWork_eq], ?_⟩
    rw [State.setWork_work, State.setOut_work, hwork]
    exact ⟨rfl, rfl⟩
  · exact ⟨s, if_neg hh, rfl, rfl⟩

/-- Where FIN raises, the abort sequence runs with STAGE FIN (R246). -/
theorem exec_fin_raise {s u : State} {e : Raise} (h : fin s = .raise e u) :
    ∃ t, exec .fin s = .next t ∧ AbortedTo s t e 0x1B :=
  ⟨_, by rw [exec_fin, h, settle_raise], ((framed_fin s).raise e u h).abortedTo _ _⟩

/-- Settles O32: FIN first writes the held bits, which raises where OUT is full, and then compares WBITS with TBITS. -/
theorem finRaises : Obligations.FinRaises := by
  unfold Obligations.FinRaises
  intro s
  refine ⟨fun hh hc => ?_, fun hr hne => ?_⟩
  · obtain ⟨u, hu⟩ := emitHeld_full hh hc
    exact exec_fin_raise (by rw [fin, hu, Res.bind_raise])
  · obtain ⟨u, hu, hw, ht⟩ := emitHeld_ok hr
    exact exec_fin_raise (u := u) (by rw [fin, hu, Res.bind_ok, if_neg (by rw [hw, ht]; exact hne)])

end Sys2Proof.Proofs

namespace Sys2Proof.Proofs

open Sys2Proof.Machine Sys2Proof.Safety Sys2Proof.Reference

/-! ### How a micro-operation ends -/

/-- The abort sequence has run, for some error and stage (R246). -/
def Aborts (s t : State) : Prop := ∃ (e : Raise) (stage : Byte), AbortedTo s t e stage

/-- A micro-operation aborts, or its rule completes and what holds behind its transition holds. -/
theorem settle_frame {P : State → Prop} {s t : State} {x : Byte} {r : Res Unit} {k : State → State}
    (hraise : ∀ e u, r = .raise e u → SameOutside s u) (hok : Res.Ends r fun u => P (k u))
    (ht : settle x r k = .next t) : Aborts s t ∨ P t := by
  obtain ⟨u, hu, rfl⟩ | ⟨e, u, hu, rfl⟩ := (settle_eq_next _ _).1 ht
  · exact .inr (hok () u hu)
  · exact .inl ⟨e, x, (hraise e u hu).abortedTo e x⟩

/-- The transitions of the sequencer stay inside the frame of the micro-operations but for PHASE and the END operand. -/
theorem movesOn_frame {s u t : State} (hu : SameOutside s u) (ht : MovesOn u t) :
    SameInputSide s t ∧ SameControl s t := by
  rw [ht.only]
  exact ⟨hu.sameInputSide, hu.sameControl⟩

/-! ### The micro-operations that append nothing -/

theorem sameOutput_refl (s : State) : SameOutput s s := ⟨rfl, fun _ => rfl⟩

theorem quietStable_sameOutput (s : State) : QuietStable (SameOutput s) where
  setWork := fun h _ => h
  countDraw := id

section NoOutput
variable {s t : State} (h : SameOutput s t)
include h

theorem sameOutput_heapInsert (i : NodeIx) : Res.Ends (heapInsert i t) (SameOutput s) := by
  unfold heapInsert
  split
  · exact ends_raise
  · exact ends_ok h

theorem sameOutput_heapExtract : Res.Ends (heapExtract t) (SameOutput s) := by
  unfold heapExtract
  split
  · exact ends_raise
  · split
    · exact ends_stop
    · split
      · exact ends_raise
      · exact ends_ok h

theorem sameOutput_addNode (nd : Node) : Res.Ends (addNode nd t) (SameOutput s) := by
  unfold addNode
  split
  · exact ends_raise
  · exact ends_bind (P := SameOutput s) (ends_ok h) fun _ _ h => sameOutput_heapInsert h _

theorem sameOutput_leaf : Res.Ends (leaf t) (SameOutput s) := by
  unfold leaf scanSymbol
  split
  · exact sameOutput_addNode h _
  · exact ends_stop

theorem sameOutput_merge : Res.Ends (merge t) (SameOutput s) :=
  ends_bind (sameOutput_heapExtract h) fun _ _ h => ends_bind (sameOutput_heapExtract h) fun _ _ h =>
    ends_bind ((quietStable_sameOutput s).store h) fun _ _ h => sameOutput_addNode h _

theorem sameOutput_root : Res.Ends (root t) (SameOutput s) := by
  unfold root
  split
  · exact ends_ok h
  · exact ends_bind (sameOutput_heapExtract h) fun _ _ h => ends_ok h

theorem sameOutput_getb : Res.Ends (getb t) (SameOutput s) :=
  ends_bind (ends_getIn h) fun _ _ h => ends_bind ((quietStable_sameOutput s).store h) fun _ _ h => ends_ok h

theorem sameOutput_wbeg : Res.Ends (wbeg t) (SameOutput s) := by
  unfold wbeg
  split
  · split
    · exact ends_ok h
    · exact ends_raise
  · exact ends_ok h

theorem sameOutput_wfin : Res.Ends (wfin t) (SameOutput s) := by
  unfold wfin
  split
  · exact ends_ok h
  · exact ends_raise

end NoOutput

/-- What an operation that appends nothing keeps (R52, R53). -/
def LeavesOutput (s t : State) : Prop := SameOutput s t ∧ SameInputSide s t ∧ SameControl s t

/-- A rule that appends nothing, and a transition of the sequencer behind it. -/
theorem leavesOutput_micro {s t : State} {x : Byte} {r : Res Unit} {k : State → State} (hf : r.Framed s)
    (ho : Res.Ends r (SameOutput s)) (hk : ∀ u, MovesOn u (k u)) (ht : settle x r k = .next t) :
    Aborts s t ∨ LeavesOutput s t := by
  refine settle_frame hf.raise (fun _ u hu => ⟨?_, movesOn_frame (hf.ok () u hu) (hk u)⟩) ht
  have := ho () u hu
  rw [(hk u).only]
  exact this

theorem leavesOutput_hins {s t : State} (h : exec .hins s = .next t) : Aborts s t ∨ LeavesOutput s t := by
  have hf := framed_heapInsert s.hArg s
  exact settle_frame (k := fun u => u) hf.raise (fun _ u hu =>
    ⟨sameOutput_heapInsert (sameOutput_refl s) _ () u hu, (hf.ok () u hu).sameInputSide, (hf.ok () u hu).sameControl⟩) h

/-- HEXT's result goes to a latch that belongs to neither side. -/
theorem leavesOutput_hext {s t : State} (h : exec .hext s = .next t) : Aborts s t ∨ LeavesOutput s t := by
  have hf := framed_heapExtract s
  refine settle_frame (k := fun u => u) (fun e u hu => ?_) (fun _ u hu => ?_) h
  · obtain hr | ⟨i, v, -, hk⟩ := (Res.bind_eq_raise _ _).1 hu
    · exact hf.raise e u hr
    · cases hk
  · obtain ⟨i, v, hv, hk⟩ := (Res.bind_eq_ok _).1 hu
    cases hk
    exact ⟨sameOutput_heapExtract (sameOutput_refl s) i v hv, (hf.ok i v hv).sameInputSide, (hf.ok i v hv).sameControl⟩

/-- Settles O46: none of these rules writes OUT or OUT_LEN, and neither does the transition behind it. -/
theorem nonStoringFrame : Obligations.NonStoringFrame := by
  unfold Obligations.NonStoringFrame
  intro i s t hi h
  have ho := sameOutput_refl s
  have hq := quietStable_sameOutput s
  cases i with
  | facc => exact leavesOutput_micro (framed_facc s) (hq.facc ho) movesOn_afterFacc h
  | leaf => exact leavesOutput_micro (framed_leaf s) (sameOutput_leaf ho) (fun u => movesOn_leafScan _ u u.work) h
  | hins => exact leavesOutput_hins h
  | hext => exact leavesOutput_hext h
  | merge => exact leavesOutput_micro (framed_merge s) (sameOutput_merge ho) movesOn_mergeOrRoot h
  | root => exact leavesOutput_micro (framed_root s) (sameOutput_root ho) movesOn_afterRoot h
  | cgen => exact leavesOutput_micro (framed_cgen s) (hq.cgen ho) (fun u => movesOn_setPhase u (by decide)) h
  | hpar => exact leavesOutput_micro (framed_hpar s) (hq.hpar ho) (fun u => movesOn_leafScan 0 u u.work) h
  | getb => exact leavesOutput_micro (framed_getb s) (sameOutput_getb ho) (fun u => movesOn_setPhase u (by decide)) h
  | wbeg => exact leavesOutput_micro (framed_wbeg s) (sameOutput_wbeg ho) movesOn_afterWbeg h
  | wfin => exact leavesOutput_micro (framed_wfin s) (sameOutput_wfin ho) (movesOn_gotoEnd 0) h
  | encode | decode | clr | hser | push1 | pushc | fin | walk1 | endCmd => exact absurd hi (by decide)

/-! ### The micro-operations that append -/

/-- The tables and the tree are the same. -/
structure SameTables (w w' : Work) : Prop where
  heap : w'.heap = w.heap
  hsize : w'.hsize = w.hsize
  nnodes : w'.nnodes = w.nnodes
  node : w'.node = w.node
  root : w'.root = w.root
  freq : w'.freq = w.freq
  code : w'.code = w.code

theorem SameTables.trans {w w' w'' : Work} (h : SameTables w w') (h' : SameTables w' w'') : SameTables w w'' where
  heap := h'.heap.trans h.heap
  hsize := h'.hsize.trans h.hsize
  nnodes := h'.nnodes.trans h.nnodes
  node := h'.node.trans h.node
  root := h'.root.trans h.root
  freq := h'.freq.trans h.freq
  code := h'.code.trans h.code

/-- `t` is `s` with bytes appended to OUT, every one of them written, and with the same tables and tree (R52, R58). -/
structure Stores (s t : State) : Prop where
  only : OnlyAppended s t
  filled : ∀ a, s.outLen.toNat ≤ a → a < t.outLen.toNat → (t.outBuf.read a).isSome = true
  tables : SameTables s.work t.work

theorem stores_refl (s : State) : Stores s s :=
  ⟨onlyAppended_refl s, fun _ hl ha => absurd ha (Nat.not_lt.2 hl), by constructor <;> rfl⟩

theorem Stores.setWork {s t : State} {w : Work} (h : Stores s t) (hw : SameTables t.work w) : Stores s (t.setWork w) :=
  ⟨h.only, h.filled, h.tables.trans hw⟩

theorem Stores.countDraw {s t : State} (h : Stores s t) : Stores s t.countDraw := ⟨h.only, h.filled, h.tables⟩

theorem Stores.append {s t : State} (h : Stores s t) (b : Byte) (hr : t.outLen.toNat < t.outCap.toNat) :
    Stores s (t.setOut (t.outBuf.write t.outLen.toNat b) (t.outLen + 1)) where
  only := onlyAppended_trans h.only (onlyAppended_write hr rfl rfl)
  filled := fun a hl ha => by
    rw [State.setOut_outLen, outLen_succ hr] at ha
    rw [State.setOut_outBuf]
    by_cases he : a = t.outLen.toNat
    · rw [he, Memory.read_write_same]
      rfl
    · rw [Memory.read_write_ne _ _ he]
      exact h.filled a hl (by omega)
  tables := h.tables

section Storing
variable {s t : State} (h : Stores s t)
include h

theorem stores_store {r : Config.FreeReg} {w v : Nat} : Res.Ends (store r w v t) (Stores s) := by
  intro x u hu
  obtain rfl | rfl := store_state hu
  · exact h
  · exact h.countDraw

theorem stores_putOut (b : Byte) : Res.Ends (putOut b t) (Stores s) := by
  obtain ⟨hr, he⟩ | ⟨-, he⟩ := putOut_cases b t
  · rw [he]
    exact ends_ok (h.append b hr)
  · rw [he]
    exact ends_raise

theorem stores_putOutN (m v : Nat) : Res.Ends (putOutN m v t) (Stores s) := by
  induction m generalizing v t with
  | zero => exact ends_ok h
  | succ m ih => exact ends_bind (stores_putOut h _) fun _ _ h => ih h _

theorem stores_putPair (row : Byte × Word) : Res.Ends (putPair row t) (Stores s) := by
  unfold putPair
  split
  · exact ends_ok h
  · exact ends_bind (stores_putOut h _) fun _ _ h => stores_putOutN h _ _

theorem stores_validBits : Res.Ends (validBits t) (Stores s) := by
  unfold validBits
  split
  · exact ends_ok h.countDraw
  · exact ends_ok h

theorem stores_headerRegs : Res.Ends (headerRegs t) (Stores s) := by
  unfold headerRegs
  refine ends_bind (P := Stores s) (ends_ok (h.setWork (by constructor <;> rfl))) fun _ s1 h => ?_
  refine ends_bind (stores_store h) fun _ s2 h => ?_
  refine ends_bind (P := Stores s) (ends_ok (h.setWork (by constructor <;> rfl))) fun _ s3 h => ?_
  exact ends_bind (stores_validBits h) fun _ s4 h => ends_ok (h.setWork (by constructor <;> rfl))

theorem stores_hser : Res.Ends (hser t) (Stores s) := by
  unfold hser
  exact ends_bind (stores_headerRegs h) fun _ _ h => ends_bind (stores_putOutN h _ _) fun _ _ h =>
    ends_bind (ends_forEach (fun _ _ h => stores_putPair h _) _ h) fun _ _ h =>
    ends_bind (stores_putOut h _) fun _ _ h => ends_bind (stores_putOutN h _ _) fun _ _ h =>
    ends_ok (h.setWork (by constructor <;> rfl))

theorem stores_emptyAcc : Res.Ends (emptyAcc t) (Stores s) := ends_ok (h.setWork (by constructor <;> rfl))

theorem stores_emitFull : Res.Ends (emitFull t) (Stores s) := by
  unfold emitFull
  split
  · exact ends_bind (stores_putOut h _) fun _ _ h => stores_emptyAcc h
  · exact ends_ok h

theorem stores_pushBit (b : Bit) : Res.Ends (pushBit b t) (Stores s) :=
  ends_bind (stores_store h) fun _ _ h => ends_bind (stores_store h) fun _ _ h =>
    ends_bind (ends_ok (h.setWork (by constructor <;> rfl))) fun _ _ h => stores_emitFull h

theorem stores_pushc : Res.Ends (pushc t) (Stores s) :=
  ends_bind (ends_getIn h) fun _ _ h => ends_forEach (fun _ _ h => stores_pushBit h _) _ h

theorem stores_emitHeld : Res.Ends (emitHeld t) (Stores s) := by
  unfold emitHeld
  split
  · refine ends_bind (P := Stores s) (fun b u hu => ?_) fun _ _ h =>
      ends_bind (stores_putOut h _) fun _ _ h => stores_emptyAcc h
    obtain ⟨b', u', hu', rfl | rfl⟩ := paddedByte_ok t
    · cases hu'.symm.trans hu
      exact h
    · cases hu'.symm.trans hu
      exact h.countDraw
  · exact ends_ok h

theorem stores_fin : Res.Ends (fin t) (Stores s) := by
  refine ends_bind (stores_emitHeld h) fun _ u h => ?_
  split
  · exact ends_ok h
  · exact ends_raise

theorem stores_walkEdge : Res.Ends (walkEdge t) (Stores s) := by
  refine ends_bind (ends_getNode h) fun _ _ h => ends_bind (P := Stores s)
    (ends_ok (h.setWork (by constructor <;> rfl))) fun _ _ h => ends_bind (ends_getNode h) fun nd u h => ?_
  cases nd.tag with
  | internal => exact ends_ok h
  | leaf => exact ends_bind (stores_putOut h _) fun _ _ h => ends_ok (h.setWork (by constructor <;> rfl))

theorem stores_walk1 : Res.Ends (walk1 t) (Stores s) := by
  refine ends_bind (ends_getNode h) fun nd u h => ?_
  cases nd.tag with
  | leaf => exact stores_putOut h _
  | internal => exact stores_walkEdge h

end Storing

/-- What an operation that appends keeps, in the words of the statement (R52, R53, R58). -/
def AppendsOnly (s t : State) : Prop :=
  OnlyAppended s t ∧ (∀ a, s.outLen.toNat ≤ a → a < t.outLen.toNat → (t.outBuf.read a).isSome = true) ∧
  t.work.freq = s.work.freq ∧ t.work.node = s.work.node ∧ t.work.nnodes = s.work.nnodes ∧
  t.work.heap = s.work.heap ∧ t.work.hsize = s.work.hsize ∧ t.work.code = s.work.code ∧
  t.work.root = s.work.root ∧ SameInputSide s t ∧ SameControl s t

theorem Stores.appendsOnly {s t : State} (h : Stores s t) (hf : SameInputSide s t ∧ SameControl s t) :
    AppendsOnly s t :=
  ⟨h.only, h.filled, h.tables.freq, h.tables.node, h.tables.nnodes, h.tables.heap, h.tables.hsize, h.tables.code,
    h.tables.root, hf⟩

/-- A rule that appends, and a transition of the sequencer behind it that leaves the tables and the tree alone. -/
theorem appendsOnly_micro {s t : State} {x : Byte} {r : Res Unit} {k : State → State} (hf : r.Framed s)
    (hs : Res.Ends r (Stores s)) (hk : ∀ u, MovesOn u (k u)) (hw : ∀ u, SameTables u.work (k u).work)
    (ht : settle x r k = .next t) : Aborts s t ∨ AppendsOnly s t := by
  refine settle_frame hf.raise (fun _ u hu => ?_) ht
  have hmoved : Stores s (k u) := by
    have := (hs () u hu).setWork (hw u)
    rw [(hk u).only]
    exact ⟨this.only, this.filled, this.tables⟩
  exact hmoved.appendsOnly (movesOn_frame (hf.ok () u hu) (hk u))

theorem sameTables_afterHser (u : State) : SameTables u.work (afterHser u).work := by
  unfold afterHser
  split
  · constructor <;> rfl
  · constructor <;> rfl

theorem sameTables_afterPushc (u : State) : SameTables u.work (afterPushc u).work := by
  unfold afterPushc
  dsimp only
  split
  · constructor <;> rfl
  · constructor <;> rfl

theorem sameTables_walkLoop (u : State) : SameTables u.work (walkLoop u).work := by
  rw [walkLoop_eq]
  constructor <;> rfl

theorem appendsOnly_push1 {s t : State} (h : exec .push1 s = .next t) : Aborts s t ∨ AppendsOnly s t := by
  have hf := framed_pushBit s.bArg s
  exact settle_frame (k := fun u => u) hf.raise (fun _ u hu => (stores_pushBit (stores_refl s) _ () u hu).appendsOnly
    ⟨(hf.ok () u hu).sameInputSide, (hf.ok () u hu).sameControl⟩) h

/-- Settles O47: PutOut is the only write of OUT and writes at OUT_LEN; the rules and the transitions behind them write
none of the tables. -/
theorem storingFrame : Obligations.StoringFrame := by
  unfold Obligations.StoringFrame
  intro i s t hi h
  have hs := stores_refl s
  cases i with
  | hser =>
    exact appendsOnly_micro (framed_hser s) (stores_hser hs) movesOn_afterHser sameTables_afterHser h
  | push1 => exact appendsOnly_push1 h
  | pushc =>
    exact appendsOnly_micro (framed_pushc s) (stores_pushc hs) movesOn_afterPushc sameTables_afterPushc h
  | fin =>
    exact appendsOnly_micro (framed_fin s) (stores_fin hs) (movesOn_gotoEnd 0) (fun _ => by constructor <;> rfl) h
  | walk1 =>
    exact appendsOnly_micro (framed_walk1 s) (stores_walk1 hs) movesOn_walkLoop sameTables_walkLoop h
  | encode | decode | clr | facc | leaf | hins | hext | merge | root | cgen | hpar | getb | endCmd | wbeg | wfin =>
    exact absurd hi (by decide)

/-! ### HSER where the header does not fit -/

/-- One byte or more find OUT full also where OUT_LEN is beyond OUT_CAP (R58, R191). -/
theorem appends_putOutN_pos {m : Nat} (hm : 0 < m) (v : Nat) (s : State) :
    Appends s (putOutN m v s) (leBytes m v) := by
  obtain ⟨m, rfl⟩ := Nat.exists_eq_succ_of_ne_zero hm.ne'
  exact appends_bind (appends_putOut _ s) fun t _ ht => appends_putOutN m _ t ht

/-- What HSER writes behind the registers of the header (R191). -/
def putHeader (s : State) : Res Unit :=
  (putOutN 4 s.work.scount.toNat s).bind fun _ s2 =>
  (forEach s2.work.freqRows putPair s2).bind fun _ s3 =>
  (putOut s3.work.vbits s3).bind fun _ s4 => putOutN 8 s4.work.tbits.toNat s4

theorem hser_eq_putHeader (s : State) :
    hser s = (headerRegs s).bind fun _ u => (putHeader u).bind fun _ t => putWork (t.work.setScan 256) t := by
  simp only [hser, putHeader, res_bind_assoc]

/-- The header is appended whole, or OUT is too small for it, whatever its registers hold (R58, R191). -/
theorem appends_putHeader (s : State) :
    Appends s (putHeader s) (leBytes 4 s.work.scount.toNat ++ (pairBytes (freqOf s.work) ++
      ([s.work.vbits] ++ leBytes 8 s.work.tbits.toNat))) := by
  rw [← rowBytes_freqRows]
  refine appends_bind (appends_putOutN_pos (by decide) _ s) fun t ht hr => ?_
  rw [← ht.work]
  refine appends_bind (appends_putPairs _ t hr) fun v hv hr => ?_
  rw [← hv.work]
  refine appends_bind (appends_putOut _ v) fun x hx hr => ?_
  rw [← hx.work]
  exact appends_putOutN 8 _ x hr

/-- The result neither raises nor stops. -/
def Res.Completes {α : Type} (r : Res α) : Prop := ∃ a t, r = .ok a t

theorem completes_ok {α : Type} (a : α) (s : State) : Res.Completes (.ok a s) := ⟨a, s, rfl⟩

theorem completes_bind {α β : Type} {r : Res α} {k : α → State → Res β} (h : Res.Completes r)
    (hk : ∀ a t, Res.Completes (k a t)) : Res.Completes (r.bind k) := by
  obtain ⟨a, t, rfl⟩ := h
  exact hk a t

theorem completes_store (r : Config.FreeReg) (w v : Nat) (s : State) : Res.Completes (store r w v s) := by
  unfold store
  split
  · exact completes_ok _ s
  · exact completes_ok _ s.countDraw

theorem completes_validBits (s : State) : Res.Completes (validBits s) := by
  unfold validBits
  split
  · exact completes_ok _ s.countDraw
  · exact completes_ok _ s

/-- HSER computes its registers in every state, where they do not fit too (R12, R191). -/
theorem completes_headerRegs (s : State) : Res.Completes (headerRegs s) := by
  unfold headerRegs
  exact completes_bind (completes_ok _ _) fun _ t => completes_bind (completes_store .tbits 64 (bitSum t.work) t)
    fun _ _ => completes_bind (completes_ok _ _) fun _ u => completes_bind (completes_validBits u) fun _ _ =>
    completes_ok _ _

/-- HSER raises where its header does not fit (R58, R191). -/
theorem hser_full {s : State} (h : s.outCap.toNat < s.outLen.toNat + (13 + 9 * distinctSymbols s.work)) :
    ∃ u, hser s = .raise .ioOutFull u := by
  obtain ⟨_, u, hu⟩ := completes_headerRegs s
  have hcap := ((framed_headerRegs s).ok () u hu).outCap
  have hlen := ((quietStable_sameOutput s).headerRegs (sameOutput_refl s) () u hu).1
  have hfreq : freqOf u.work = freqOf s.work := by
    funext b
    unfold freqOf Work.freqAt
    rw [(stores_headerRegs (stores_refl s) () u hu).tables.freq]
  obtain ⟨v, hv, -⟩ := (appends_putHeader u).full (by
    simp only [List.length_append, leBytes_length, pairBytes_length, List.length_singleton, hfreq, distinct_freqOf,
      hcap, hlen]
    omega)
  exact ⟨v, by rw [hser_eq_putHeader, hu, Res.bind_ok, hv, Res.bind_raise]⟩

/-- Settles O34: whatever the registers of the header hold, its length is 13 bytes and 9 for each Symbol in use, and the
first byte without room raises. -/
theorem hserOutFull : Obligations.HserOutFull := by
  unfold Obligations.HserOutFull
  intro s h
  obtain ⟨u, hu⟩ := hser_full h
  refine ⟨abort .ioOutFull 0x18 u.disownOut, ?_, ((framed_hser s).raise _ u hu).abortedTo _ _⟩
  exact congrArg (settle 0x18 · afterHser) hu

end Sys2Proof.Proofs

namespace Sys2Proof.Proofs

open Sys2Proof.Machine Sys2Proof.Safety Sys2Proof.Reference

/-! ### Results that do not stop -/

/-- The result completes or raises. -/
def Res.NoStop {α : Type} (r : Res α) : Prop := ∀ f, r ≠ .stop f

theorem noStop_ok {α : Type} (a : α) (s : State) : Res.NoStop (.ok a s) := fun _ => nofun

theorem noStop_raise {α : Type} (e : Raise) (s : State) : Res.NoStop (.raise e s : Res α) := fun _ => nofun

theorem noStop_bind {α β : Type} {r : Res α} {k : α → State → Res β} (h : Res.NoStop r)
    (hk : ∀ a t, r = .ok a t → Res.NoStop (k a t)) : Res.NoStop (r.bind k) := by
  intro f hf
  obtain hr | ⟨a, t, hr, hs⟩ := (Res.bind_eq_stop f k).1 hf
  · exact h f hr
  · exact hk a t hr f hs

theorem noStop_completes {α : Type} {r : Res α} (h : Res.Completes r) : Res.NoStop r := by
  obtain ⟨a, t, rfl⟩ := h
  exact noStop_ok a t

theorem noStop_store (r : Config.FreeReg) (w v : Nat) (s : State) : Res.NoStop (store r w v s) :=
  noStop_completes (completes_store r w v s)

/-- A loop does not stop where no turn does, as long as every turn keeps what the turns rely on. -/
theorem noStop_forEach {α : Type} {P : State → Prop} {body : α → State → Res Unit} {xs : List α} {s : State}
    (hbody : ∀ x ∈ xs, ∀ t, P t → Res.NoStop (body x t)) (hkeep : ∀ x t, P t → Res.Ends (body x t) P) (hs : P s) :
    Res.NoStop (forEach xs body s) := by
  induction xs generalizing s with
  | nil => exact noStop_ok () s
  | cons x xs ih =>
    exact noStop_bind (hbody x List.mem_cons_self s hs) fun _ t ht =>
      ih (fun y hy => hbody y (List.mem_cons_of_mem x hy)) (hkeep x s hs () t ht)

/-- A micro-operation whose rule does not stop answers a next state. -/
theorem settle_answers {x : Byte} {r : Res Unit} {k : State → State} (h : Res.NoStop r) :
    ∃ t, settle x r k = .next t := by
  cases r with
  | ok a s => exact ⟨_, rfl⟩
  | raise e s => exact ⟨_, rfl⟩
  | stop f => exact absurd rfl (h f)

/-! ### Reads of a filled input -/

theorem loaded_frame {s t : State} (h : Loaded s) (ht : SameOutside s t) : Loaded t := by
  unfold Loaded
  rw [ht.inLen, ht.inBuf]
  exact h

section Reads
variable {s : State} (h : Loaded s)
include h

theorem noStop_getIn {a : Nat} (ha : a < s.inLen.toNat) : Res.NoStop (getIn a s) := by
  obtain ⟨b, hb⟩ := Option.isSome_iff_exists.1 (h a ha)
  rw [getIn_of_read ha hb]
  exact noStop_ok b s

theorem noStop_memReadIn {n a : Nat} (ha : a + n ≤ s.inLen.toNat) : Res.NoStop (memReadIn n a s) := by
  induction n generalizing a with
  | zero => exact noStop_ok 0 s
  | succ n ih =>
    refine noStop_bind (noStop_getIn h (by omega)) fun b t ht => ?_
    obtain ⟨-, -, rfl⟩ := getIn_eq_ok.1 ht
    exact noStop_bind (ih (by omega)) fun v u _ => noStop_ok _ u

theorem noStop_facc (hi : s.work.iptr.toNat < s.inLen.toNat) : Res.NoStop (facc s) :=
  noStop_bind (noStop_getIn h hi) fun _ t _ => noStop_bind (noStop_store _ _ _ t) fun _ _ _ =>
    noStop_ok _ _

theorem noStop_getb (hi : s.work.pbase.toNat + s.work.rbits.toNat / 8 < s.inLen.toNat) : Res.NoStop (getb s) :=
  noStop_bind (noStop_getIn h hi) fun _ t _ => noStop_bind (noStop_store _ _ _ t) fun _ _ _ =>
    noStop_ok _ _

/-- The pairs that IN_LEN covers can be read (R196, R204). -/
theorem noStop_getPair {k : Nat} (hk : 13 + 9 * k ≤ s.inLen.toNat) : Res.NoStop (getPair k s) := by
  refine noStop_bind (noStop_getIn h (by omega)) fun b t ht => ?_
  obtain ⟨-, -, rfl⟩ := getIn_eq_ok.1 ht
  exact noStop_bind (noStop_memReadIn h (by omega)) fun _ _ _ => noStop_ok _ _

theorem noStop_parseBits {n : Nat} (hn : Config.hdrLen n ≤ s.inLen.toNat) : Res.NoStop (parseBits n s) := by
  unfold Config.hdrLen at hn
  refine noStop_bind (noStop_getIn h (by omega)) fun vbits t ht => ?_
  obtain ⟨-, -, rfl⟩ := getIn_eq_ok.1 ht
  rw [putWork_eq, Res.bind_ok]
  split
  · exact noStop_raise _ _
  · refine noStop_bind (noStop_memReadIn (s := t.setWork (t.work.setVbits vbits)) h ?_) fun tbits u _ => ?_
    · rw [State.setWork_inLen]
      omega
    · rw [putWork_eq, Res.bind_ok]
      split
      · exact noStop_raise _ _
      · exact noStop_ok _ _

theorem noStop_parsePairs (n : Nat) : Res.NoStop (parsePairs n s) := by
  unfold parsePairs
  split
  · exact noStop_raise _ s
  · next hn =>
    have hn := Nat.not_lt.1 hn
    refine noStop_bind ?_ fun _ t ht => ?_
    · refine noStop_forEach (P := SameOutside s) (fun k hk t ht => ?_)
        (fun k t ht _ u hu => ht.trans ((framed_getPair k t).ok () u hu)) (.refl s)
      have := List.mem_range.1 hk
      unfold Config.hdrLen at hn
      exact noStop_getPair (loaded_frame h ht) (by rw [ht.inLen]; omega)
    · have hf := (framed_forEach _ framed_getPair s).ok () t ht
      split
      · exact noStop_raise _ t
      · exact noStop_parseBits (loaded_frame h hf) (by rw [hf.inLen]; exact hn)

/-- HPAR reads nothing that its length checks do not cover (R196, R204). -/
theorem noStop_hpar : Res.NoStop (hpar s) := by
  unfold hpar
  split
  · exact noStop_raise _ s
  · refine noStop_bind (noStop_memReadIn h (by omega)) fun v t ht => ?_
    obtain rfl := memReadIn_ok_state ht
    rw [putWork_eq, Res.bind_ok]
    split
    · exact noStop_raise _ _
    · exact noStop_parsePairs (s := t.setWork (t.work.setScount (BitVec.ofNat 32 v))) h _

end Reads

/-! ### Rules that read no input -/

theorem noStop_putOut (b : Byte) (s : State) : Res.NoStop (putOut b s) := by
  obtain ⟨-, he⟩ | ⟨-, he⟩ := putOut_cases b s
  · rw [he]
    exact noStop_ok _ _
  · rw [he]
    exact noStop_raise _ _

theorem noStop_putOutN (m v : Nat) (s : State) : Res.NoStop (putOutN m v s) := by
  induction m generalizing v s with
  | zero => exact noStop_ok () s
  | succ m ih => exact noStop_bind (noStop_putOut _ s) fun _ t _ => ih _ t

theorem noStop_putPair (row : Byte × Word) (s : State) : Res.NoStop (putPair row s) := by
  unfold putPair
  split
  · exact noStop_ok () s
  · exact noStop_bind (noStop_putOut _ s) fun _ t _ => noStop_putOutN _ _ t

/-- A loop whose turns never stop never stops. -/
theorem noStop_loop {α : Type} {body : α → State → Res Unit} (h : ∀ x t, Res.NoStop (body x t)) (xs : List α)
    (s : State) : Res.NoStop (forEach xs body s) :=
  noStop_forEach (P := fun _ => True) (fun x _ t _ => h x t) (fun _ _ _ _ _ _ => trivial) trivial

theorem noStop_hser (s : State) : Res.NoStop (hser s) := by
  rw [hser_eq_putHeader]
  refine noStop_bind (noStop_completes (completes_headerRegs s)) fun _ t _ => noStop_bind ?_ fun _ _ _ => noStop_ok _ _
  exact noStop_bind (noStop_putOutN _ _ t) fun _ u _ => noStop_bind (noStop_loop noStop_putPair _ u) fun _ v _ =>
    noStop_bind (noStop_putOut _ v) fun _ x _ => noStop_putOutN _ _ x

theorem noStop_emitFull (s : State) : Res.NoStop (emitFull s) := by
  unfold emitFull
  split
  · exact noStop_bind (noStop_putOut _ s) fun _ _ _ => noStop_ok _ _
  · exact noStop_ok () s

theorem noStop_pushBit (b : Bit) (s : State) : Res.NoStop (pushBit b s) :=
  noStop_bind (noStop_store _ _ _ s) fun _ t _ =>
    noStop_bind (noStop_store _ _ _ t) fun _ _ _ => noStop_emitFull _

theorem noStop_pushc {s : State} (h : Loaded s) (hi : s.work.iptr.toNat < s.inLen.toNat) : Res.NoStop (pushc s) :=
  noStop_bind (noStop_getIn h hi) fun _ t _ => noStop_loop noStop_pushBit _ t

theorem noStop_fin (s : State) : Res.NoStop (fin s) := by
  refine noStop_bind ?_ fun _ t _ => ?_
  · unfold emitHeld
    split
    · obtain ⟨b, u, hu, -⟩ := paddedByte_ok s
      rw [hu, Res.bind_ok]
      exact noStop_bind (noStop_putOut b u) fun _ _ _ => noStop_ok _ _
    · exact noStop_ok () s
  · split
    · exact noStop_ok () t
    · exact noStop_raise _ t

theorem noStop_wbeg (s : State) : Res.NoStop (wbeg s) := by
  unfold wbeg
  split
  · split
    · exact noStop_ok () s
    · exact noStop_raise _ s
  · exact noStop_ok _ _

theorem noStop_wfin (s : State) : Res.NoStop (wfin s) := by
  unfold wfin
  split
  · exact noStop_ok () s
  · exact noStop_raise _ s

/-! ### BUILD -/

theorem noStop_addNode (nd : Node) (s : State) : Res.NoStop (addNode nd s) := by
  obtain hn | hn := Nat.lt_or_ge s.work.nnodes.toNat 511
  · obtain hh | hh := Nat.lt_or_ge s.work.hsize.toNat 256
    · rw [addNode_of_room hn hh]
      exact noStop_ok _ _
    · rw [addNode_heap hn hh]
      exact noStop_raise _ _
  · rw [addNode_arena hn]
    exact noStop_raise _ s

theorem noStop_leaf {s : State} (h : s.work.scan.toNat < 256) : Res.NoStop (leaf s) := by
  unfold leaf scanSymbol
  rw [if_pos h]
  exact noStop_addNode _ s

/-- NIL is no member of a well-formed heap, and every other index has a key (R121, R125). -/
theorem noStop_heapExtract {s : State} (h : Building s) : Res.NoStop (heapExtract s) := by
  unfold heapExtract
  split
  · exact noStop_raise _ s
  · split
    · next hnil => exact absurd (by simpa using hnil) (HeapOk.nil_notMem h.running.heap h.running.arena.1)
    · split
      · exact noStop_raise _ s
      · exact noStop_ok _ _

theorem noStop_merge {s : State} (h : Building s) : Res.NoStop (merge s) :=
  noStop_bind (noStop_heapExtract h) fun _ _ ht => noStop_bind (noStop_heapExtract (building_heapExtract h ht).1)
    fun _ u _ => noStop_bind (noStop_store _ _ _ u) fun _ v _ => noStop_addNode _ v

theorem noStop_root {s : State} (h : Building s) : Res.NoStop (root s) := by
  unfold root
  split
  · exact noStop_ok _ _
  · exact noStop_bind (noStop_heapExtract h) fun _ _ _ => noStop_ok _ _

/-! ### Walks over the tree -/

/-- A node in use can be read (R30, R31). -/
theorem getNode_inUse {s : State} {i : NodeIx} (h : ArenaOk s.work) (hi : i.toNat < s.work.nnodes.toNat) :
    ∃ nd, s.work.nodeAt i = some nd ∧ getNode i s = .ok nd s := by
  obtain ⟨nd, hnd⟩ := Option.isSome_iff_exists.1 (s.work.nodeAt_isSome (hi.trans_le h.1))
  exact ⟨nd, hnd, getNode_eq_ok.2 ⟨hnd, rfl⟩⟩

/-- An Internal node 255 edges deep raises (R157). -/
theorem visit_tooDeep {i : NodeIx} {path : BitString} {s : State} {nd : Node} (h : s.work.nodeAt i = some nd)
    (ht : nd.tag = .internal) : visit 0 i path s = .raise .guardCode s := by
  rw [visit]
  simp only [h, ht]

theorem quietStable_nnodes (n : BitVec 10) : QuietStable fun s => s.work.nnodes = n where
  setWork := fun h hw => hw.nnodes.trans h
  countDraw := id

/-- A visit from a node in use stays among the nodes in use (R148, R157). -/
theorem noStop_visit {room : Nat} {i : NodeIx} {path : BitString} {s : State} (h : Running s)
    (hi : i.toNat < s.work.nnodes.toNat) : Res.NoStop (visit room i path s) := by
  induction room generalizing i path s with
  | zero =>
    obtain ⟨nd, hnd, -⟩ := getNode_inUse h.arena hi
    cases ht : nd.tag with
    | leaf =>
      rw [visit_leaf hnd ht]
      exact noStop_ok _ _
    | internal =>
      rw [visit_tooDeep hnd ht]
      exact noStop_raise _ s
  | succ room ih =>
    obtain ⟨nd, hnd, -⟩ := getNode_inUse h.arena hi
    cases ht : nd.tag with
    | leaf =>
      rw [visit_leaf hnd ht]
      exact noStop_ok _ _
    | internal =>
      obtain ⟨hl, hr⟩ := h.arena.2 i nd hi hnd ht
      rw [visit_internal hnd ht]
      refine noStop_bind (ih h (hl.trans hi)) fun _ t htv => ih (appendStable_running.visit h () t htv) ?_
      rw [(quietStable_nnodes s.work.nnodes).visit rfl () t htv]
      exact hr.trans hi

theorem noStop_cgen {s : State} (h : Running s) (hr : RootInUse s.work) : Res.NoStop (cgen s) := by
  obtain ⟨nd, -, hnd⟩ := getNode_inUse h.arena hr
  unfold cgen
  rw [hnd, Res.bind_ok]
  cases nd.tag with
  | leaf => exact noStop_ok _ _
  | internal => exact noStop_visit h hr

/-- Below an Internal root CURSOR is Internal, and its edges lead to nodes in use (R218). -/
theorem noStop_walk1 {s : State} (h : Walking s) : Res.NoStop (walk1 s) := by
  obtain ⟨top, htop, hget⟩ := getNode_inUse h.running.arena h.root
  unfold walk1
  rw [hget, Res.bind_ok]
  cases ht : top.tag with
  | leaf => exact noStop_putOut _ s
  | internal =>
    obtain ⟨here, hhere, hget⟩ := getNode_inUse h.running.arena h.cursor.1
    have hin : here.tag = .internal := (h.cursor.2 here top hhere htop).trans ht
    have hchild := child_inUse h.running.arena h.cursor.1 hhere hin s.work.bit
    obtain ⟨nd, -, hnd⟩ :=
      getNode_inUse (s := s.setWork (s.work.setCursor (here.child s.work.bit))) h.running.arena hchild
    dsimp only
    rw [walkEdge, hget, Res.bind_ok, putWork_eq, Res.bind_ok, State.setWork_work, Work.setCursor_cursor, hnd,
      Res.bind_ok]
    cases nd.tag with
    | leaf => exact noStop_bind (noStop_putOut _ _) fun _ _ _ => noStop_ok _ _
    | internal => exact noStop_ok _ _

/-! ### Under the invariant no step stops -/

/-- The next payload bit lies inside IN (R199, R216). -/
theorem getb_inside {s : State} (h : PayloadInside s) (hb : s.work.rbits.toNat < s.work.tbits.toNat) :
    s.work.pbase.toNat + s.work.rbits.toNat / 8 < s.inLen.toNat := by
  obtain ⟨hp, ht⟩ := h
  omega

/-- Under the invariant, with IN filled, the micro-operation in PHASE answers a next state. -/
theorem exec_micro_answers {i : Instr} {s : State} (h : Inv s) (hl : Loaded s) (hi : i.opClass = .micro)
    (hp : s.phase = opcode i) : ∃ t, exec i s = .next t := by
  cases i with
  | clr => exact ⟨_, rfl⟩
  | facc => exact settle_answers (noStop_facc hl (h.operands.inputByte (.inl hp)))
  | leaf => exact settle_answers (noStop_leaf (h.operands.symbol hp))
  | merge => exact settle_answers (noStop_merge (building_of_phase h hp))
  | root => exact settle_answers (noStop_root (building_of_phase h hp))
  | cgen => exact settle_answers (noStop_cgen (running_of_phase h hp) (rootInUse_of_phase h hp))
  | hser => exact settle_answers (noStop_hser s)
  | pushc => exact settle_answers (noStop_pushc hl (h.operands.inputByte (.inr hp)))
  | fin => exact settle_answers (noStop_fin s)
  | hpar => exact settle_answers (noStop_hpar hl)
  | getb => exact settle_answers (noStop_getb hl
      (getb_inside (walking_of_phase h hp).payload (h.operands.bitLeft hp)))
  | walk1 => exact settle_answers (noStop_walk1 (walking_of_phase h hp))
  | endCmd => exact ⟨_, rfl⟩
  | wbeg => exact settle_answers (noStop_wbeg s)
  | wfin => exact settle_answers (noStop_wfin s)
  | encode | decode | hins | hext | push1 => cases hi

/-- The legal values of PHASE other than IDLE are the opcodes of the micro-operations (R23, R73). -/
theorem micro_of_legalPhase {p : Byte} (h : p ∈ legalPhases) (busy : p ≠ 0x00) :
    ∃ i : Instr, i.opClass = .micro ∧ p = opcode i := by
  have hl : legalPhases = 0x00 :: [Instr.clr, .facc, .leaf, .merge, .root, .cgen, .hser, .pushc, .fin, .hpar, .getb,
      .walk1, .endCmd, .wbeg, .wfin].map opcode := rfl
  rw [hl] at h
  obtain ⟨i, hi, rfl⟩ := List.mem_map.1 ((List.mem_cons.1 h).resolve_left busy)
  refine ⟨i, ?_, rfl⟩
  revert i
  decide

/-- A next state, or the refusal of a request to which the spec gives no meaning (R26, R76, U7). -/
def AnswersRequest (o : Host.Outcome State Fault Refusal) : Prop :=
  (∃ t, o = .next t) ∨ (∃ c, o = .refused (.reservedCommand c)) ∨ ∃ off, o = .refused (.hostAccess off)

theorem hostRegRead_answers (off : Nat) (s : State) : AnswersRequest (hostRegRead off s) := by
  unfold hostRegRead
  cases hostRegAt off with
  | none => exact .inr (.inr ⟨_, rfl⟩)
  | some r =>
    cases r with
    | cmd => exact .inr (.inr ⟨_, rfl⟩)
    | status | inLen | outLen | outCap | inOk => exact .inl ⟨_, rfl⟩

theorem hostRegWrite_answers (off : Nat) (v : Word) (s : State) : AnswersRequest (hostRegWrite off v s) := by
  unfold hostRegWrite
  cases hostRegAt off with
  | none => exact .inr (.inr ⟨_, rfl⟩)
  | some r =>
    cases r with
    | cmd =>
      dsimp only
      split
      · exact .inl ⟨_, rfl⟩
      · exact .inr (.inl ⟨_, rfl⟩)
    | status | outLen => exact .inr (.inr ⟨_, rfl⟩)
    | inLen | outCap | inOk => exact .inl ⟨_, rfl⟩

theorem hostAccess_answers (a : HostAct) (s : State) : AnswersRequest (hostAccess a s) := by
  cases a with
  | regWrite off v => exact hostRegWrite_answers off v s
  | regRead off => exact hostRegRead_answers off s
  | inWrite | outRead | reset => exact .inl ⟨_, rfl⟩

theorem idleStep_answers (s : State) : AnswersRequest (idleStep s) := by
  unfold idleStep
  split
  · exact .inl ⟨_, rfl⟩
  · exact hostAccess_answers _ _

theorem issue_answers (c : Byte) (s : State) : ∃ t, issue c s = .next t := by
  unfold issue
  dsimp only
  split
  · exact ⟨_, rfl⟩
  · split
    · exact ⟨_, rfl⟩
    · exact ⟨_, rfl⟩

/-- The idle machine with a value in CMD issues a command or refuses the value (R76, R100). -/
theorem step_cmd_answers {s : State} {c : Byte} (hf : fetch s = some (.cmd, c)) : AnswersRequest (step s) := by
  unfold step
  rw [hf]
  dsimp only
  split
  · exact .inr (.inl ⟨_, rfl⟩)
  · next i _ _ =>
    split
    · next hw =>
      rw [exec_host_eq_issue (of_decide_eq_true hw)]
      exact .inl (issue_answers _ _)
    · exact .inr (.inl ⟨_, rfl⟩)

theorem step_answers {s : State} (h : Inv s) (hl : Loaded s) : AnswersRequest (step s) := by
  by_cases hp : s.phase = 0x00
  · cases hc : s.cmd with
    | none =>
      rw [step_idle hp h.noCall hc]
      exact idleStep_answers s
    | some c => exact step_cmd_answers (c := c) (by simp [fetch, h.noCall, hp, hc])
  · obtain ⟨i, hi, hpi⟩ := micro_of_legalPhase h.phaseLegal hp
    rw [step_of_phase h.noCall hpi hi]
    exact .inl (exec_micro_answers h hl hi hpi)

/-- Settles O50: the invariant gives the operation in PHASE the operands it reads, so the step answers a next state, and
what is left to refuse is a request of the host. -/
theorem invariantStepsNeverStop : Obligations.InvariantStepsNeverStop := by
  unfold Obligations.InvariantStepsNeverStop
  intro s h hl
  obtain ⟨t, ht⟩ | ⟨c, hc⟩ | ⟨off, ho⟩ := step_answers h hl
  · rw [ht]
    exact ⟨fun _ => nofun, fun _ => nofun⟩
  · rw [hc]
    exact ⟨fun _ => nofun, fun r hr => .inl ⟨c, by cases hr; rfl⟩⟩
  · rw [ho]
    exact ⟨fun _ => nofun, fun r hr => .inr ⟨off, by cases hr; rfl⟩⟩

end Sys2Proof.Proofs

namespace Sys2Proof.Proofs

open Sys2Proof.Machine Sys2Proof.Safety Sys2Proof.Reference

/-! ### What HPAR reads from a filled input -/

/-- Reading a filled IN gives the bytes the statements speak of (R57). -/
theorem getIn_loaded {s : State} {a : Nat} (h : Loaded s) (ha : a < s.inLen.toNat) :
    getIn a s = .ok (inByte s a) s := by
  obtain ⟨y, hy⟩ := Option.isSome_iff_exists.1 (h a ha)
  rw [getIn_of_read ha hy, inByte, hy]
  rfl

/-- `MemRead` of a filled IN gives the little-endian value of its bytes (R14, R59). -/
theorem memReadIn_loaded {s : State} {n a : Nat} (h : Loaded s) (ha : a + n ≤ s.inLen.toNat) :
    memReadIn n a s = .ok (inNat s a n) s := by
  induction n generalizing a with
  | zero => rfl
  | succ n ih => rw [memReadIn, getIn_loaded h (by omega), Res.bind_ok, ih (by omega), Res.bind_ok, inNat]

/-- `n` bytes of IN hold a value below `256 ^ n` (R14, R55). -/
theorem inNat_lt (s : State) (a n : Nat) : inNat s a n < 256 ^ n := by
  induction n generalizing a with
  | zero => exact Nat.one_pos
  | succ n ih =>
    have := ih (a + 1)
    have := (inByte s a).isLt
    rw [inNat, pow_succ]
    omega

/-- What a header declares stands in IN and not in the registers. -/
theorem inNat_setWork (s : State) (w : Work) (a n : Nat) : inNat (s.setWork w) a n = inNat s a n := by
  induction n generalizing a with
  | zero => rfl
  | succ n ih =>
    rw [inNat, ih, inNat]
    rfl

/-- Only the frequencies a header does not list come from the registers. -/
theorem declaredFreq_setWork {s : State} {w : Work} (h : w.freq = s.work.freq) (n : Nat) (b : Byte) :
    declaredFreq (s.setWork w) n b = declaredFreq s n b := by
  induction n with
  | zero =>
    change (w.freqAt b).toNat = (s.work.freqAt b).toNat
    unfold Work.freqAt
    rw [h]
  | succ n ih =>
    rw [declaredFreq, ih, inNat_setWork, declaredFreq]
    rfl

/-- The last turn of a loop runs behind all the others (R13). -/
theorem forEach_concat {α : Type} (xs : List α) (x : α) (body : α → State → Res Unit) (s : State) :
    forEach (xs ++ [x]) body s = (forEach xs body s).bind fun _ t => body x t := by
  induction xs generalizing s with
  | nil =>
    change (body x s).bind (fun _ t => .ok () t) = body x s
    cases body x s <;> rfl
  | cons y ys ih =>
    rw [List.cons_append, forEach_cons, forEach_cons, res_bind_assoc]
    simp only [ih]

/-- One pair is a table write (R196, R198). -/
theorem getPair_loaded {s : State} {k : Nat} (h : Loaded s) (hk : 13 + 9 * k ≤ s.inLen.toNat) :
    getPair k s = .ok ()
      (s.setWork (s.work.setFreq (inByte s (4 + 9 * k)) (BitVec.ofNat 64 (inNat s (5 + 9 * k) 8)))) := by
  rw [getPair, getIn_loaded h (by omega), Res.bind_ok, memReadIn_loaded h (by omega), Res.bind_ok, putWork_eq]

/-- The pairs load the declared frequencies: the last pair of a Symbol wins (R196, R198). -/
theorem getPairs_loaded {s : State} {n : Nat} (h : Loaded s) (hn : 4 + 9 * n ≤ s.inLen.toNat) :
    ∃ w, forEach (List.range n) getPair s = .ok () (s.setWork w) ∧ w = { s.work with freq := w.freq } ∧
      ∀ b, freqOf w b = declaredFreq s n b := by
  induction n with
  | zero => exact ⟨s.work, rfl, rfl, fun _ => rfl⟩
  | succ n ih =>
    obtain ⟨w, hw, hwo, hwf⟩ := ih (by omega)
    have hlt : inNat s (5 + 9 * n) 8 < 2 ^ 64 := inNat_lt s _ 8
    refine ⟨w.setFreq (inByte s (4 + 9 * n)) (BitVec.ofNat 64 (inNat s (5 + 9 * n) 8)), ?_, ?_, fun b => ?_⟩
    · rw [List.range_succ, forEach_concat, hw, Res.bind_ok]
      exact getPair_loaded (s := s.setWork w) h (by rw [State.setWork_inLen]; omega)
    · rw [hwo]
      rfl
    · rw [freqOf_setFreq _ _ _ hlt, hwf, declaredFreq]
      simp only [eq_comm]

/-- The registers HPAR sets behind the pairs, from the valid bits and the total (R196). -/
def boundsWork (w : Work) (n : Nat) (valid : Byte) (total : Nat) : Work :=
  ((w.setVbits valid).setTbits (BitVec.ofNat 64 total)).setPbase (BitVec.ofNat 64 (Config.hdrLen n))

/-- Bit counts that pass HPAR's checks are loaded (R196, R199, R200). -/
theorem parseBits_loaded {s : State} {n : Nat} (h : Loaded s) (hn : Config.hdrLen n ≤ s.inLen.toNat)
    (h1 : 1 ≤ (inByte s (4 + 9 * n)).toNat) (h8 : (inByte s (4 + 9 * n)).toNat ≤ 8)
    (ht : inNat s (5 + 9 * n) 8 ≤ availBits (s.inLen.toNat - Config.hdrLen n) (inByte s (4 + 9 * n)).toNat) :
    parseBits n s = .ok ()
      (s.setWork (boundsWork s.work n (inByte s (4 + 9 * n)) (inNat s (5 + 9 * n) 8))) := by
  have hlen : Config.hdrLen n = 13 + 9 * n := rfl
  set s1 := s.setWork (s.work.setVbits (inByte s (4 + 9 * n)))
  have hr : memReadIn 8 (5 + 9 * n) s1 = .ok (inNat s (5 + 9 * n) 8) s1 := by
    rw [memReadIn_loaded (s := s1) h (by change _ ≤ s.inLen.toNat; omega), inNat_setWork]
  rw [parseBits, getIn_loaded h (by omega), Res.bind_ok, putWork_eq, Res.bind_ok, if_neg (by omega), hr, Res.bind_ok,
    putWork_eq, Res.bind_ok]
  exact if_neg (Nat.not_lt.2 ht)

/-- A count that HPAR reads as a number of pairs is that number in SCOUNT (R197). -/
theorem declaredCount_eq {s : State} {n : Nat} (h : declaredCount s = n) :
    BitVec.ofNat 32 (inNat s 0 4) = BitVec.ofNat 32 n := by
  have hi : (BitVec.ofNat 32 (inNat s 0 4)).toInt = n := h
  rw [← BitVec.ofInt_toInt (x := BitVec.ofNat 32 (inNat s 0 4)), hi, BitVec.ofInt_natCast]

/-- The pairs of a header that fits IN are loaded, and the bit counts behind them are read (R196, R201, R204). -/
theorem parsePairs_loaded {s : State} {n : Nat} (h : Loaded s) (hl : Config.hdrLen n ≤ s.inLen.toNat)
    (hsum : declaredSum s n < 2 ^ 64) :
    ∃ w, parsePairs n s = parseBits n (s.setWork w) ∧ w = { s.work with freq := w.freq } ∧
      ∀ b, freqOf w b = declaredFreq s n b := by
  have hlen : Config.hdrLen n = 13 + 9 * n := rfl
  obtain ⟨w, hw, hwo, hwf⟩ := getPairs_loaded h (n := n) (by omega)
  have hfs : freqSum w = declaredSum s n := by
    have : freqSum w = (symbols.map fun b => freqOf w b).sum := freqSum_eq w
    rw [this, funext hwf]
    rfl
  refine ⟨w, ?_, hwo, hwf⟩
  rw [parsePairs, if_neg (Nat.not_lt.2 hl), hw, Res.bind_ok]
  exact if_neg (by rw [State.setWork_work, hfs]; omega)

/-- HPAR loads a header that passes its checks (R196 to R201). -/
theorem hpar_loaded {s : State} {n : Nat} (h : Loaded s) (hc : declaredCount s = n) (hn : n ≤ 256)
    (hl : Config.hdrLen n ≤ s.inLen.toNat) (hsum : declaredSum s n < 2 ^ 64)
    (h1 : 1 ≤ (inByte s (4 + 9 * n)).toNat) (h8 : (inByte s (4 + 9 * n)).toNat ≤ 8)
    (ht : inNat s (5 + 9 * n) 8 ≤ availBits (s.inLen.toNat - Config.hdrLen n) (inByte s (4 + 9 * n)).toNat) :
    ∃ w, hpar s = .ok () (s.setWork (boundsWork w n (inByte s (4 + 9 * n)) (inNat s (5 + 9 * n) 8))) ∧
      w = { s.work with scount := BitVec.ofNat 32 n, freq := w.freq } ∧ ∀ b, freqOf w b = declaredFreq s n b := by
  have hlen : Config.hdrLen n = 13 + 9 * n := rfl
  set s1 := s.setWork (s.work.setScount (BitVec.ofNat 32 n)) with hs1
  have hdecl : ∀ b, declaredFreq s1 n b = declaredFreq s n b :=
    declaredFreq_setWork (w := s.work.setScount (BitVec.ofNat 32 n)) rfl n
  obtain ⟨w, hw, hwo, hwf⟩ := parsePairs_loaded (s := s1) h hl
    (by unfold declaredSum; rw [funext hdecl]; exact hsum)
  have hsc : s1.work.scount.toNat = n := by
    change (BitVec.ofNat 32 n).toNat = n
    rw [BitVec.toNat_ofNat]
    omega
  have hsi : s1.work.scount.toInt = n := by rw [BitVec.toInt_eq_toNat_of_lt (by omega), hsc]
  refine ⟨w, ?_, hwo, fun b => (hwf b).trans (hdecl b)⟩
  rw [hpar, if_neg (by omega), memReadIn_loaded h (by omega), Res.bind_ok, putWork_eq, Res.bind_ok, declaredCount_eq hc,
    ← hs1, hsi, if_neg (by omega), hsc, hw]
  have hb := parseBits_loaded (s := s1.setWork w) h hl h1 h8 (by rw [inNat_setWork, inNat_setWork]; exact ht)
  rw [inNat_setWork, inNat_setWork] at hb
  exact hb

/-! ### What a header written out declares -/

/-- Bytes of a value, least significant first, are read back as that value (R14, R55). -/
theorem inNat_of_stands {s : State} {a n v : Nat} (h : StandsAt s.inBuf a (leBytes n v)) :
    inNat s a n = v % 256 ^ n := by
  induction n generalizing a v with
  | zero => rw [inNat, pow_zero, Nat.mod_one]
  | succ n ih =>
    obtain ⟨h0, hs⟩ := standsAt_cons.1 h
    rw [inNat, inByte, h0, ih hs, Option.getD_some, pow_succ', Nat.mod_mul, BitVec.toNat_ofNat,
      Nat.mod_mod_of_dvd _ (by decide)]

/-- Pairs written out declare their frequencies (R82, R198). -/
theorem declaredFreq_of_pairs {s : State} {freq : Byte → Nat} (hfreq : ∀ b, freq b < 2 ^ 64) {bs : List Byte}
    (h : StandsAt s.inBuf 4 (bs.flatMap fun b => b :: leBytes 8 (freq b))) (c : Byte) :
    declaredFreq s bs.length c = if c ∈ bs then freq c else freqOf s.work c := by
  induction bs using List.reverseRecOn with
  | nil => rfl
  | append_singleton bs b ih =>
    have hlen : (bs.flatMap fun b => b :: leBytes 8 (freq b)).length = 9 * bs.length := by
      simp [List.length_flatMap, leBytes_length, Nat.mul_comm]
    rw [List.flatMap_append, standsAt_append, hlen, List.flatMap_singleton, standsAt_cons] at h
    obtain ⟨hpairs, h0, hs⟩ := h
    have hv : inNat s (5 + 9 * bs.length) 8 = freq b := by
      rw [show 5 + 9 * bs.length = 4 + 9 * bs.length + 1 by omega, inNat_of_stands hs]
      exact Nat.mod_eq_of_lt (hfreq b)
    rw [List.length_append, List.length_singleton, declaredFreq, hv, ih hpairs, inByte, h0, Option.getD_some]
    by_cases hcb : b = c
    · simp [hcb]
    · simp [hcb, Ne.symm hcb]

/-- The four parts of a header, at their offsets (R80). -/
theorem standsAt_header {m : Memory} {freq : Byte → Nat} {total : Nat} (h : StandsAt m 0 (headerBytes freq total)) :
    StandsAt m 0 (leBytes 4 (distinct freq)) ∧ StandsAt m 4 (pairBytes freq) ∧
    m.read (4 + 9 * distinct freq) = some (BitVec.ofNat 8 ((total - 1) % 8 + 1)) ∧
    StandsAt m (5 + 9 * distinct freq) (leBytes 8 total) := by
  rw [headerBytes, standsAt_append, standsAt_append, standsAt_append, standsAt_cons] at h
  simp only [List.length_append, leBytes_length, pairBytes_length, List.length_singleton, Nat.zero_add] at h
  obtain ⟨⟨⟨hcount, hpairs⟩, hvalid, -⟩, htotal⟩ := h
  exact ⟨hcount, hpairs, hvalid, by rwa [show 5 + 9 * distinct freq = 4 + 9 * distinct freq + 1 by omega]⟩

/-- What a header in IN declares, where the table it loads is fresh (R80, R197, R198). -/
theorem declared_of_header {s : State} {freq : Byte → Nat} {total : Nat}
    (h : StandsAt s.inBuf 0 (headerBytes freq total)) (hfreq : ∀ b, freq b < 2 ^ 64) (ht : total < 2 ^ 64)
    (hfresh : ∀ b, freqOf s.work b = 0) :
    declaredCount s = distinct freq ∧ (∀ b, declaredFreq s (distinct freq) b = freq b) ∧
    inByte s (4 + 9 * distinct freq) = BitVec.ofNat 8 ((total - 1) % 8 + 1) ∧
    inNat s (5 + 9 * distinct freq) 8 = total := by
  obtain ⟨hcount, hpairs, hvalid, htotal⟩ := standsAt_header h
  have hd := distinct_le freq
  refine ⟨?_, fun b => ?_, by rw [inByte, hvalid, Option.getD_some], ?_⟩
  · rw [declaredCount, inNat_of_stands hcount, Nat.mod_eq_of_lt (by norm_num; omega),
      BitVec.toInt_eq_toNat_of_lt (by rw [BitVec.toNat_ofNat]; omega), BitVec.toNat_ofNat, Nat.mod_eq_of_lt (by omega)]
  · refine (declaredFreq_of_pairs hfreq (bs := usedSyms freq) hpairs b).trans ?_
    rw [hfresh]
    split
    · rfl
    · next h0 => exact (not_not.1 fun hb => h0 (mem_usedSyms.2 hb)).symm
  · rw [inNat_of_stands htotal, Nat.mod_eq_of_lt (by norm_num; omega)]

/-- HPAR reads a header back, with the payload bytes it announces behind it, whatever they are (R80, R196). -/
theorem hpar_header {s : State} {freq : Byte → Nat} {total : Nat} (h : Loaded s)
    (hh : StandsAt s.inBuf 0 (headerBytes freq total))
    (hl : s.inLen.toNat = 13 + 9 * distinct freq + (total + 7) / 8) (ht : 1 ≤ total) (ht' : total < 2 ^ 64)
    (hsum : (symbols.map freq).sum < 2 ^ 64) (hfresh : ∀ b, freqOf s.work b = 0) :
    ∃ w, hpar s = .ok () (s.setWork
        (boundsWork w (distinct freq) (BitVec.ofNat 8 ((total - 1) % 8 + 1)) total)) ∧
      w.scount = BitVec.ofNat 32 (distinct freq) ∧ ∀ b, freqOf w b = freq b := by
  have hfreq : ∀ b, freq b < 2 ^ 64 := fun b =>
    (List.single_le_sum (fun _ _ => Nat.zero_le _) _ (List.mem_map_of_mem (mem_symbols b))).trans_lt hsum
  obtain ⟨hc, hdecl, hv, htn⟩ := declared_of_header hh hfreq ht' hfresh
  have hvn : (inByte s (4 + 9 * distinct freq)).toNat = (total - 1) % 8 + 1 := by
    rw [hv, BitVec.toNat_ofNat]
    omega
  have hp : s.inLen.toNat - Config.hdrLen (distinct freq) = (total + 7) / 8 := by
    unfold Config.hdrLen
    omega
  obtain ⟨w, hw, hwo, hwf⟩ := hpar_loaded h hc (distinct_le freq) (by unfold Config.hdrLen; omega)
    (by unfold declaredSum; rw [funext hdecl]; exact hsum) (by omega) (by omega)
    (by rw [hvn, htn, hp, availBits_exact ht])
  rw [hv, htn] at hw
  exact ⟨w, hw, by rw [hwo], fun b => (hwf b).trans (hdecl b)⟩

/-! ### What HSER leaves -/

/-- PAYLOAD begins behind HSER (R107, R180). -/
theorem afterHser_eq (s : State) :
    afterHser s = (s.setWork (s.work.setIptr 0)).setPhase (if 0 < s.inLen.toNat then 0x1A else 0x1B) := by
  unfold afterHser
  split <;> rfl

/-- The state HSER leaves, where `u` is the state with the header appended (R191). -/
def headerDone (w : Work) (u : State) : State := afterHser (u.setWork ((headerWork w).setScan 256))

theorem headerDone_work (w : Work) (u : State) :
    (headerDone w u).work = ((headerWork w).setScan 256).setIptr 0 := by
  rw [headerDone, afterHser_eq]
  rfl

theorem headerDone_output (w : Work) (u : State) :
    (headerDone w u).outBuf = u.outBuf ∧ (headerDone w u).outLen = u.outLen := by
  rw [headerDone, afterHser_eq]
  exact ⟨rfl, rfl⟩

/-- HSER that does not abort has appended its header (R58, R191). -/
theorem exec_hser_cases {s : State} (h1 : 1 ≤ bitSum s.work) (h2 : bitSum s.work < 2 ^ 64)
    (hcap : s.outLen.toNat ≤ s.outCap.toNat) :
    (∃ u, exec .hser s = .next (headerDone s.work u) ∧
      Appended (s.setWork (headerWork s.work)) u (headerBytes (freqOf s.work) (bitSum s.work))) ∨
    (s.outCap.toNat < s.outLen.toNat + (13 + 9 * distinct (freqOf s.work)) ∧
      ∃ u, exec .hser s = .next (abort .ioOutFull 0x18 u)) := by
  obtain ⟨u, hu, happ⟩ | ⟨hfull, u, hu⟩ := hser_cases h1 h2 hcap
  · exact .inl ⟨u, congrArg (settle 0x18 · afterHser) hu, happ⟩
  · exact .inr ⟨hfull, u.disownOut, congrArg (settle 0x18 · afterHser) hu⟩

/-- Settles O3: HSER has appended the header of its tables at the start of OUT, and HPAR reads a header back that has
as many payload bytes behind it as it announces. -/
theorem headerParsesBack : Obligations.HeaderParsesBack := by
  unfold Obligations.HeaderParsesBack
  intro s t u hout h1 h2 hsum hx busy hcopy hload hlen hfresh
  have ho : s.outLen.toNat = 0 := congrArg BitVec.toNat hout
  obtain ⟨x, hx', happ⟩ | ⟨-, x, hx'⟩ := exec_hser_cases h1 h2 (by omega)
  · obtain rfl : t = headerDone s.work x := Host.Outcome.next.inj (hx.symm.trans hx')
    obtain ⟨hbuf, hol⟩ := headerDone_output s.work x
    have hxl : x.outLen.toNat = 13 + 9 * distinct (freqOf s.work) := by
      rw [happ.len, State.setWork_outLen, ho, headerBytes_length, Nat.zero_add]
    have hin : StandsAt u.inBuf 0 (headerBytes (freqOf s.work) (bitSum s.work)) := fun k hk => by
      have := happ.new k hk
      rw [State.setWork_outLen, ho] at this
      rw [hcopy _ (by rw [hol, hxl, Nat.zero_add, ← headerBytes_length _ (bitSum s.work)]; exact hk), hbuf, this]
    rw [hol, hxl] at hlen
    obtain ⟨w, hw, hwc, hwf⟩ := hpar_header hload hin hlen h1 h2 (freqSum_eq s.work ▸ hsum)
      (fun b => congrArg BitVec.toNat (hfresh b))
    refine ⟨leafScan 0 _, congrArg (settle 0x1C · afterHpar) hw, leafScan_busy _ _, ?_⟩
    obtain ⟨z, p, hscan, -⟩ := leafScan_cases 0 (u.setWork (boundsWork w (distinct (freqOf s.work))
      (BitVec.ofNat 8 ((bitSum s.work - 1) % 8 + 1)) (bitSum s.work)))
    rw [hscan, headerDone_work, hol, hxl]
    refine ⟨?_, fun b => BitVec.eq_of_toNat_eq (hwf b), rfl, rfl, ?_⟩
    · exact hwc.trans (by rw [distinct_freqOf]; rfl)
    · change (BitVec.ofNat 64 (13 + 9 * distinct (freqOf s.work))).toNat = _
      have := distinct_le (freqOf s.work)
      rw [BitVec.toNat_ofNat]
      omega
  · obtain rfl := Host.Outcome.next.inj (hx.symm.trans hx')
    exact absurd rfl busy

end Sys2Proof.Proofs

namespace Sys2Proof.Proofs

open Sys2Proof.Machine Sys2Proof.Safety Sys2Proof.Reference

/-! ### HSER where the header fits -/

theorem headerWork_scount (w : Work) : (headerWork w).scount.toNat = distinct (freqOf w) := by
  have := distinct_le (freqOf w)
  change (BitVec.ofNat 32 (distinctSymbols w)).toNat = _
  rw [← distinct_freqOf, BitVec.toNat_ofNat]
  omega

theorem headerWork_tbits {w : Work} (h : bitSum w < 2 ^ 64) : (headerWork w).tbits.toNat = bitSum w := by
  change (BitVec.ofNat 64 (bitSum w)).toNat = _
  rw [BitVec.toNat_ofNat, Nat.mod_eq_of_lt h]

theorem headerWork_vbits (w : Work) : (headerWork w).vbits.toNat = (bitSum w - 1) % 8 + 1 := by
  change (BitVec.ofNat 8 ((bitSum w - 1) % 8 + 1)).toNat = _
  rw [BitVec.toNat_ofNat]
  omega

theorem onlyAppended_of_appended {s t : State} {bs : List Byte} (h : Appended s t bs) : OnlyAppended s t :=
  ⟨by rw [h.len]; exact Nat.le_add_right _ _, fun a ha => h.old a (h.len ▸ ha)⟩

/-- Settles O33: with room HSER appends the header of its tables, computes the registers that stand in it, and the
sequencer goes on to PAYLOAD. -/
theorem hserAppendsHeader : Obligations.HserAppendsHeader := by
  unfold Obligations.HserAppendsHeader
  intro s h1 h2 hroom
  rw [← distinct_freqOf] at hroom ⊢
  obtain ⟨u, hx, happ⟩ | ⟨hfull, -⟩ := exec_hser_cases h1 h2 (by omega)
  · obtain ⟨hbuf, hol⟩ := headerDone_output s.work u
    have hbytes := headerBytes_length (freqOf s.work) (bitSum s.work)
    have hlen : u.outLen.toNat = s.outLen.toNat + (13 + 9 * distinct (freqOf s.work)) := hbytes ▸ happ.len
    obtain ⟨hin, hctl⟩ := movesOn_frame (happ.sameOutside.trans (sameOutside_setWork _ _)) (movesOn_afterHser _)
    have hout := onlyAppended_of_appended happ
    refine ⟨headerDone s.work u, hx, hol ▸ hlen, fun k hk => hbuf ▸ happ.new k (hbytes ▸ hk), ?_⟩
    rw [headerDone_work]
    refine ⟨headerWork_scount _, headerWork_tbits h2, headerWork_scount _, (headerWork_tbits h2).trans (bitSum_eq _),
      headerWork_vbits _, rfl, ?_, hin, hctl, fun hpos => ?_⟩
    · unfold OnlyAppended
      rw [hbuf, hol]
      exact hout
    · rw [headerDone, afterHser_eq]
      exact ⟨if_pos (happ.sameOutside.inLen ▸ hpos), rfl⟩
  · omega

end Sys2Proof.Proofs

namespace Sys2Proof.Proofs

open Sys2Proof.Machine Sys2Proof.Safety Sys2Proof.Reference

/-! ### The header of a whole ENCODE -/

/-- The counts of IN are those of the byte string in it (R105). -/
theorem InputIs.countIn_eq_count {s : State} {inp : List Byte} (h : InputIs s inp) (b : Byte) :
    countIn s b = inp.count b := by
  have hmap : (List.range s.inLen.toNat).map s.inBuf.read = inp.map some := by
    apply List.ext_getElem
    · simp [h.length]
    · intro k hk _
      have hk' : k < inp.length := by simpa [h.length] using hk
      have := h.stands k hk'
      rw [Nat.zero_add] at this
      simp [this, hk']
  calc countIn s b = ((List.range s.inLen.toNat).map s.inBuf.read).count (some b) := by
        rw [countIn, List.count, List.countP_map, List.countP_eq_length_filter]
        rfl
    _ = inp.count b := by rw [hmap, List.count_map_of_injective _ _ (Option.some_injective _)]

/-- A command that has not failed passed the prechecks (R100). -/
theorem prechecks_of_success {s t : State} {i : Instr} (hi : i.opClass = .host) (h : Issued (opcode i) s)
    (ht : CompletesIn s t) (hf : statusFail t.status = 0) : s.inOk = 1 ∧ s.inLen.toNat ≤ s.maxInLen.val := by
  have hnf := not_fails ht hf
  refine ⟨?_, Nat.not_lt.1 fun hl => hnf (issued_fails hi h (.inr hl))⟩
  have hne : s.inOk ≠ 0 := fun h0 => hnf (issued_fails hi h (.inl h0))
  bv_omega

/-- Settles O58: a successful ENCODE leaves the artifact of its input, and its total is the number of payload bits, at
least one for each byte of IN. -/
theorem encodeWritesCountsOfInput : Obligations.EncodeWritesCountsOfInput := by
  unfold Obligations.EncodeWritesCountsOfInput
  intro s t hs hload hpos hst hfail
  obtain ⟨hok, hl⟩ := prechecks_of_success (i := .encode) rfl hs hst hfail
  obtain ⟨inp, hin⟩ := exists_input hload
  have hlen : 0 < inp.length := hin.length ▸ hpos
  obtain ⟨r, T, hT⟩ := exists_treeOf (List.length_pos_iff.1 hlen)
  obtain ⟨t', ht', he⟩ | ⟨hf, -⟩ := encode_cases hs hin hok hl hT (List.length_pos_iff.1 hlen)
  · obtain rfl := completesIn_unique hst ht'
    have hcount : countIn s = fun b => inp.count b := funext hin.countIn_eq_count
    rw [hcount]
    refine ⟨(payloadOf T.codeD inp).length, hlen.trans_le hT.payload_length.1, he.artifact.length, fun k hk => ?_⟩
    have := he.artifact.header k (by rwa [headerBytes_length])
    rwa [Nat.zero_add] at this
  · exact absurd hf (not_fails hst hfail)

end Sys2Proof.Proofs

namespace Sys2Proof.Proofs

open Sys2Proof.Machine Sys2Proof.Safety Sys2Proof.Reference

/-! ### The operation codes -/

/-- The decoder looks at the first byte alone (R70, R77). -/
theorem decode_cons_eq_ok {b : Byte} {bytes rest : List Byte} {i : Instr} :
    decode (b :: bytes) = .ok (i, rest) ↔ decode [b] = .ok (i, []) ∧ rest = bytes := by
  cases h : decodeByte b with
  | none => simp [decode, h]
  | some j => simp [decode, h, eq_comm (a := bytes)]

/-- Settles O2: the decoder reads exactly what the encoder writes, and the opcode map is the encoder's. -/
theorem decodeExactlyEncodings : Obligations.DecodeExactlyEncodings := by
  unfold Obligations.DecodeExactlyEncodings
  intro bytes rest i
  constructor
  · intro h
    cases bytes with
    | nil => cases h
    | cons b bytes =>
      obtain ⟨hd, rfl⟩ := decode_cons_eq_ok.1 h
      rw [opcode_of_decode hd]
      rfl
  · rintro rfl
    exact decode_encode i rest

/-- The host commands are ENCODE and DECODE (R72, R73). -/
theorem opcode_of_host {i : Instr} (h : i.opClass = .host) : opcode i = 0x01 ∨ opcode i = 0x02 := by
  cases i
  case encode => exact .inl rfl
  case decode => exact .inr rfl
  all_goals cases h

/-- A byte that is no operation of its port's class is refused (R23, R76). -/
theorem step_refused {s : State} {p : Port} {b : Byte} (hf : fetch s = some (p, b))
    (hb : ∀ i : Instr, i.opClass = p.accepts → b ≠ opcode i) : step s = .refused (portRefusal p b) := by
  unfold step
  rw [hf]
  dsimp only
  split
  · rfl
  · next i _ hd => exact if_neg fun hw => hb i (of_decide_eq_true hw) (opcode_of_decode hd)

/-- Settles O7: CMD takes operations of class H alone, and those are 0x01 and 0x02. -/
theorem reservedCommandRefused : Obligations.ReservedCommandRefused := by
  unfold Obligations.ReservedCommandRefused
  intro s c h h1 h2
  have hf : fetch s = some (.cmd, c) := by simp [fetch, h.noCall, h.idle, h.written]
  refine step_refused hf fun i hi hc => ?_
  rcases opcode_of_host hi with ho | ho
  · exact h1 (hc.trans ho)
  · exact h2 (hc.trans ho)

/-- Settles O1: each byte is the encoding of its operation. -/
theorem opcodeBytesDecode : Obligations.OpcodeBytesDecode :=
  ⟨decode_encode .encode [], decode_encode .decode [], decode_encode .facc [], decode_encode .hext [],
    decode_encode .merge [], decode_encode .cgen [], decode_encode .pushc [], decode_encode .hpar [],
    decode_encode .walk1 [], decode_encode .wfin [], idle_is_no_operation []⟩

end Sys2Proof.Proofs

namespace Sys2Proof.Proofs

open Sys2Proof.Machine Sys2Proof.Safety Sys2Proof.Reference

/-! ### The rules and transitions of the micro-operations, by name -/

theorem runsRule_facc : RunsRule .facc facc afterFacc := ⟨fun _ => rfl, framed_facc, movesOn_afterFacc⟩

theorem runsRule_leaf : RunsRule .leaf leaf afterLeaf :=
  ⟨fun _ => rfl, framed_leaf, fun s => movesOn_leafScan _ s s.work⟩

theorem runsRule_hser : RunsRule .hser hser afterHser := ⟨fun _ => rfl, framed_hser, movesOn_afterHser⟩

theorem runsRule_pushc : RunsRule .pushc pushc afterPushc := ⟨fun _ => rfl, framed_pushc, movesOn_afterPushc⟩

theorem runsRule_fin : RunsRule .fin fin afterFin := ⟨fun _ => rfl, framed_fin, movesOn_gotoEnd 0⟩

theorem runsRule_hpar : RunsRule .hpar hpar afterHpar :=
  ⟨fun _ => rfl, framed_hpar, fun s => movesOn_leafScan 0 s s.work⟩

theorem runsRule_wbeg : RunsRule .wbeg wbeg afterWbeg := ⟨fun _ => rfl, framed_wbeg, movesOn_afterWbeg⟩

theorem runsRule_getb : RunsRule .getb getb afterGetb :=
  ⟨fun _ => rfl, framed_getb, fun s => movesOn_setPhase s (by decide)⟩

theorem runsRule_walk1 : RunsRule .walk1 walk1 afterWalk1 := ⟨fun _ => rfl, framed_walk1, movesOn_walkLoop⟩

theorem runsRule_wfin : RunsRule .wfin wfin afterWfin := ⟨fun _ => rfl, framed_wfin, movesOn_gotoEnd 0⟩

section Rules
variable {i : Instr} {rule : State → Res Unit} {next : State → State} {s u : State} (h : RunsRule i rule next)
include h

theorem RunsRule.next_of_ok (hu : rule s = .ok () u) : exec i s = .next (next u) := by
  rw [h.exec_eq, hu, settle_ok]

/-- A rule that raises aborts its command with its own opcode as STAGE (R246). -/
theorem RunsRule.aborts {e : Raise} (hu : rule s = .raise e u) :
    ∃ t, exec i s = .next t ∧ AbortedTo s t e (opcode i) :=
  ⟨_, by rw [h.exec_eq, hu, settle_raise], ((h.framed s).raise e u hu).abortedTo e _⟩

/-- The step of a running command whose rule completes goes where the sequencer sends it (R107). -/
theorem RunsRule.reaches (hi : i.opClass = .micro) (hsub : s.sub = none) (hp : s.phase = opcode i)
    (hu : rule s = .ok () u) : Reaches s (next u) :=
  reaches_of_ok hsub hp hi (h.exec_eq s) hu (h.moves u).busy

end Rules

/-! ### Two runs of a command with the same result -/

/-- What the host finds behind both commands is the same (R111). -/
structure SameResult (t t' : State) : Prop where
  status : t'.status = t.status
  outLen : t'.outLen = t.outLen
  bytes : ∀ a, a < t.outLen.toNat → t'.outBuf.read a = t.outBuf.read a

/-- Both runs complete with the same result, or the first one never completes, which it does not where `L` holds. -/
def EndAlike (L : Prop) (s s' : State) : Prop :=
  (∃ t t', CompletesIn s t ∧ CompletesIn s' t' ∧ SameResult t t') ∨ ¬ L ∧ ∀ t, ¬ CompletesIn s t

/-- A run that completes goes on to its end from every state it comes through. -/
theorem Reaches.completesIn_rest {s u t : State} (h : Reaches s u) (ht : CompletesIn s t) : CompletesIn u t := by
  induction h with
  | refl => exact ht
  | @head s v u hs busy _ ih =>
    obtain ⟨fuel, hf, idle, pos⟩ := ht
    obtain ⟨n, rfl⟩ := Nat.exists_eq_succ_of_ne_zero pos.ne'
    simp only [runToIdle, hs, if_neg busy] at hf
    refine ih ⟨n, hf, idle, Nat.pos_of_ne_zero ?_⟩
    rintro rfl
    cases hf
    exact busy idle

/-- A command does not complete from a state whose step stops. -/
theorem not_completesIn_of_fault {s t : State} {f : Fault} (hs : step s = .fault f) : ¬ CompletesIn s t := by
  rintro ⟨fuel, hf, -, pos⟩
  obtain ⟨n, rfl⟩ := Nat.exists_eq_succ_of_ne_zero pos.ne'
  simp only [runToIdle, hs] at hf
  cases hf

theorem endAlike_of_reaches {L : Prop} {s s' u u' : State} (h : Reaches s u) (h' : Reaches s' u')
    (hu : EndAlike L u u') : EndAlike L s s' := by
  obtain ⟨t, t', ht, ht', hr⟩ | ⟨hL, hn⟩ := hu
  · exact .inl ⟨t, t', h.completesIn_trans ht, h'.completesIn_trans ht', hr⟩
  · exact .inr ⟨hL, fun t ht => hn t (h.completesIn_rest ht)⟩

/-- Both commands end in this step. -/
theorem endAlike_of_step {L : Prop} {s s' t t' : State} (h : step s = .next t) (h' : step s' = .next t')
    (idle : t.phase = 0x00) (idle' : t'.phase = 0x00) (hr : SameResult t t') : EndAlike L s s' :=
  .inl ⟨t, t', (Reaches.refl s).completesIn h idle, (Reaches.refl s').completesIn h' idle', hr⟩

/-- An abort leaves no output byte, so that its error, its stage and OP are its result (R246). -/
theorem sameResult_abort {s s' : State} (e : Raise) (x : Byte) (h : s'.op = s.op) :
    SameResult (abort e x s) (abort e x s') where
  status := by rw [abort_status, abort_status, h]
  outLen := rfl
  bytes := fun _ ha => absurd ha (Nat.not_lt_zero _)

/-! ### Rules that run alike in two states -/

/-- The second result follows the first: where the first completes or raises, so does the second, with the same value
or error, and where both complete, the states they leave are related by `R`. -/
inductive Res.Follows {α : Type} (R : State → State → Prop) : Res α → Res α → Prop
  | ok {a : α} {u u' : State} (h : R u u') : Res.Follows R (.ok a u) (.ok a u')
  | raise {e : Raise} {u u' : State} : Res.Follows R (.raise e u) (.raise e u')
  | stop {f : Fault} {r' : Res α} : Res.Follows R (.stop f) r'

theorem follows_bind {α β : Type} {P Q : State → State → Prop} {r r' : Res α} {k k' : α → State → Res β}
    (h : Res.Follows P r r') (hk : ∀ a u u', P u u' → Res.Follows Q (k a u) (k' a u')) :
    Res.Follows Q (r.bind k) (r'.bind k') := by
  cases h with
  | ok h => exact hk _ _ _ h
  | raise => exact .raise
  | stop => exact .stop

theorem follows_mono {α : Type} {P Q : State → State → Prop} {r r' : Res α} (h : Res.Follows P r r')
    (hpq : ∀ u u', P u u' → Q u u') : Res.Follows Q r r' := by
  cases h with
  | ok h => exact .ok (hpq _ _ h)
  | raise => exact .raise
  | stop => exact .stop

theorem follows_ite {α : Type} {R : State → State → Prop} {r₁ r₂ r₁' r₂' : Res α} {p : Prop} [Decidable p]
    (h₁ : p → Res.Follows R r₁ r₁') (h₂ : ¬ p → Res.Follows R r₂ r₂') :
    Res.Follows R (if p then r₁ else r₂) (if p then r₁' else r₂') := by
  split
  · next hp => exact h₁ hp
  · next hp => exact h₂ hp

theorem follows_forEach {α : Type} {R : State → State → Prop} {body : α → State → Res Unit}
    (hb : ∀ x u u', R u u' → Res.Follows R (body x u) (body x u')) (xs : List α) {s s' : State} (h : R s s') :
    Res.Follows R (forEach xs body s) (forEach xs body s') := by
  induction xs generalizing s s' with
  | nil => exact .ok h
  | cons x xs ih => exact follows_bind (hb x s s' h) fun _ u u' hu => ih hu

/-! ### Two states of the same command -/

/-- Two states of the same command that agree on what the host passed and on the output so far; `L` says that IN is
filled. -/
structure Twin (L : Prop) (s s' : State) : Prop where
  filled : L → Loaded s
  sub : s.sub = none
  sub' : s'.sub = none
  op : s'.op = s.op
  inLen : s'.inLen = s.inLen
  outCap : s'.outCap = s.outCap
  outLen : s'.outLen = s.outLen
  input : ∀ a, a < s.inLen.toNat → s'.inBuf.read a = s.inBuf.read a
  output : ∀ a, a < s.outLen.toNat → s'.outBuf.read a = s.outBuf.read a

/-- The micro-operation `i` in PHASE of both states: its rule runs alike, and so does what the sequencer goes on to. -/
theorem endAlike_micro {L : Prop} {i : Instr} {rule : State → Res Unit} {next : State → State}
    {R : State → State → Prop} {s s' : State} (hr : RunsRule i rule next) (hi : i.opClass = .micro)
    (ht : Twin L s s') (hp : s.phase = opcode i) (hp' : s'.phase = opcode i) (hstop : L → Res.NoStop (rule s))
    (hf : Res.Follows R (rule s) (rule s'))
    (hk : ∀ u u', rule s = .ok () u → R u u' → EndAlike L (next u) (next u')) : EndAlike L s s' := by
  have hs := (step_of_phase ht.sub hp hi).trans (hr.exec_eq s)
  have hs' := (step_of_phase ht.sub' hp' hi).trans (hr.exec_eq s')
  generalize hres : rule s = r at hs hf hstop hk
  generalize hres' : rule s' = r' at hs' hf
  cases hf with
  | @ok a u u' h =>
    exact endAlike_of_reaches (.single hs (hr.moves u).busy) (.single hs' (hr.moves u').busy) (hk u u' rfl h)
  | @raise e u u' =>
    have hu := ((hr.framed s).raise e u hres).op
    have hu' := ((hr.framed s').raise e u' hres').op
    exact endAlike_of_step hs hs' rfl rfl (sameResult_abort e _ (hu'.trans (ht.op.trans hu.symm)))
  | @stop f r' =>
    exact .inr ⟨fun hL => hstop hL f rfl, fun t => not_completesIn_of_fault hs⟩

/-- Two states of the same command whose working states are related by `V`. -/
structure TwinWith (L : Prop) (V : Work → Work → Prop) (s s' : State) : Prop where
  twin : Twin L s s'
  view : V s.work s'.work

section Twins
variable {L : Prop} {V : Work → Work → Prop} {s s' : State}

theorem Twin.setWork (h : Twin L s s') (w w' : Work) : Twin L (s.setWork w) (s'.setWork w') :=
  ⟨h.filled, h.sub, h.sub', h.op, h.inLen, h.outCap, h.outLen, h.input, h.output⟩

theorem Twin.setPhase (h : Twin L s s') (p p' : Byte) : Twin L (s.setPhase p) (s'.setPhase p') :=
  ⟨h.filled, h.sub, h.sub', h.op, h.inLen, h.outCap, h.outLen, h.input, h.output⟩

/-- The same byte appended to both outputs (R58). -/
theorem Twin.append (h : Twin L s s') (b : Byte) (hr : s.outLen.toNat < s.outCap.toNat) :
    Twin L (s.setOut (s.outBuf.write s.outLen.toNat b) (s.outLen + 1))
      (s'.setOut (s'.outBuf.write s'.outLen.toNat b) (s'.outLen + 1)) where
  filled := h.filled
  sub := h.sub
  sub' := h.sub'
  op := h.op
  inLen := h.inLen
  outCap := h.outCap
  outLen := congrArg (· + 1) h.outLen
  input := h.input
  output := fun a ha => by
    rw [State.setOut_outLen, outLen_succ hr] at ha
    rw [State.setOut_outBuf, State.setOut_outBuf, h.outLen]
    by_cases he : a = s.outLen.toNat
    · rw [he, Memory.read_write_same, Memory.read_write_same]
    · rw [Memory.read_write_ne _ _ he, Memory.read_write_ne _ _ he, h.output a (by omega)]

theorem TwinWith.setWork {V' : Work → Work → Prop} {w w' : Work} (h : TwinWith L V s s') (hv : V' w w') :
    TwinWith L V' (s.setWork w) (s'.setWork w') := ⟨h.twin.setWork w w', hv⟩

theorem TwinWith.setPhase (h : TwinWith L V s s') (p p' : Byte) : TwinWith L V (s.setPhase p) (s'.setPhase p') :=
  ⟨h.twin.setPhase p p', h.view⟩

theorem follows_getIn (h : TwinWith L V s s') (a : Nat) : Res.Follows (TwinWith L V) (getIn a s) (getIn a s') := by
  by_cases ha : a < s.inLen.toNat
  · cases hb : s.inBuf.read a with
    | none =>
      simp only [getIn, if_pos ha, hb]
      exact .stop
    | some b =>
      have ha' : a < s'.inLen.toNat := h.twin.inLen.symm ▸ ha
      rw [getIn_of_read ha hb, getIn_of_read ha' ((h.twin.input a ha).trans hb)]
      exact .ok h
  · rw [getIn, if_neg ha]
    exact .stop

theorem follows_memReadIn (h : TwinWith L V s s') (n a : Nat) :
    Res.Follows (TwinWith L V) (memReadIn n a s) (memReadIn n a s') := by
  induction n generalizing a s s' with
  | zero => exact .ok h
  | succ n ih =>
    exact follows_bind (follows_getIn h a) fun _ _ _ h => follows_bind (ih h _) fun _ _ _ h => .ok h

theorem follows_putOut (h : TwinWith L V s s') (b : Byte) :
    Res.Follows (TwinWith L V) (putOut b s) (putOut b s') := by
  obtain ⟨hr, he⟩ | ⟨hf, he⟩ := putOut_cases b s
  · rw [he, putOut_of_room (by rw [h.twin.outCap, h.twin.outLen]; exact hr)]
    exact .ok ⟨h.twin.append b hr, h.view⟩
  · rw [he, putOut_full (by rw [h.twin.outCap, h.twin.outLen]; exact hf)]
    exact .raise

theorem follows_putOutN (h : TwinWith L V s s') (m v : Nat) :
    Res.Follows (TwinWith L V) (putOutN m v s) (putOutN m v s') := by
  induction m generalizing v s s' with
  | zero => exact .ok h
  | succ m ih => exact follows_bind (follows_putOut h _) fun _ _ _ h => ih h _

theorem follows_putPair (h : TwinWith L V s s') (row : Byte × Word) :
    Res.Follows (TwinWith L V) (putPair row s) (putPair row s') :=
  follows_ite (fun _ => .ok h) fun _ => follows_bind (follows_putOut h _) fun _ _ _ h => follows_putOutN h _ _

/-- END gives both commands the same result (R106). -/
theorem endAlike_gotoEnd (h : Twin L s s') (c : BitVec 4) : EndAlike L (gotoEnd c s) (gotoEnd c s') := by
  refine .inl ⟨_, _, completesIn_end h.sub, completesIn_end h.sub', ?_, h.outLen, h.output⟩
  rw [complete_status, complete_status, gotoEnd_op, gotoEnd_op, h.op]

end Twins

/-! ### The bit writer in two runs -/

/-- The writers of two runs that have taken in the same `n` bits and hold at most `m` of them, with the same codes for
the bits to come; `i` and `i'` are their IPTRs. -/
structure WriterTwin (i i' : Word) (n m : Nat) (w w' : Work) : Prop where
  acc : w'.acc = w.acc
  held : w'.held = w.held
  wbits : w'.wbits = w.wbits
  tbits : w'.tbits = w.tbits
  code : w'.code = w.code
  heldLe : w.held.toNat ≤ m
  count : w.wbits.toNat = n
  short : ∀ b, (w.cbits b).length ≤ 255
  iptr : w.iptr = i
  iptr' : w'.iptr = i'

theorem WriterTwin.cbits {i i' : Word} {n m : Nat} {w w' : Work} (h : WriterTwin i i' n m w w') (b : Byte) :
    w'.cbits b = w.cbits b := by
  unfold Work.cbits Work.codeAt
  rw [h.code]

/-- One more bit is taken in alike; below the bound of WBITS no register takes a free value (R12, R173). -/
theorem WriterTwin.shifted {i i' : Word} {n : Nat} {w w' : Work} (h : WriterTwin i i' n 7 w w')
    (hn : n + 1 < 2 ^ 64) (b : Bit) :
    WriterTwin i i' (n + 1) 8 (shiftedWork w b) (shiftedWork w' b) where
  acc := congrArg (shiftIn · b) h.acc
  held := congrArg (fun x : BitVec 4 => BitVec.ofNat 4 (x.toNat + 1)) h.held
  wbits := congrArg (fun x : Word => BitVec.ofNat 64 (x.toNat + 1)) h.wbits
  tbits := h.tbits
  code := h.code
  heldLe := by
    have := h.heldLe
    simp only [shiftedWork, Work.setWbits_held, Work.setAcc_held, BitVec.toNat_ofNat]
    omega
  count := by
    simp only [shiftedWork, Work.setWbits_wbits, BitVec.toNat_ofNat, h.count]
    exact Nat.mod_eq_of_lt hn
  short := h.short
  iptr := h.iptr
  iptr' := h.iptr'

theorem WriterTwin.setIptr {i i' : Word} {n m : Nat} {w w' : Work} (h : WriterTwin i i' n m w w') (j : Word) :
    WriterTwin j j n m (w.setIptr j) (w'.setIptr j) := { h with iptr := rfl, iptr' := rfl }

section Writer
variable {L : Prop} {i i' : Word} {n : Nat} {s s' : State}

/-- A full byte goes to OUT alike (R173). -/
theorem follows_emitFull (h : TwinWith L (WriterTwin i i' n 8) s s') :
    Res.Follows (TwinWith L (WriterTwin i i' n 7)) (emitFull s) (emitFull s') := by
  have hv := h.view
  unfold emitFull
  rw [hv.held, hv.acc]
  refine follows_ite (fun _ => follows_bind (follows_putOut h _) fun _ u u' hu => .ok (hu.setWork ?_)) fun h8 =>
    .ok ⟨h.twin, { hv with heldLe := ?_ }⟩
  · exact { hu.view with acc := rfl, held := rfl, heldLe := Nat.zero_le _ }
  · have hne : s.work.held.toNat ≠ 8 := fun hc => h8 (BitVec.eq_of_toNat_eq hc)
    have := hv.heldLe
    omega

theorem follows_pushBit (h : TwinWith L (WriterTwin i i' n 7) s s') (hn : n + 1 < 2 ^ 64) (b : Bit) :
    Res.Follows (TwinWith L (WriterTwin i i' (n + 1) 7)) (pushBit b s) (pushBit b s') := by
  have hv := h.view
  have hlt := hv.heldLe
  have hc := hv.count
  rw [pushBit_eq (by omega) (by omega), pushBit_eq (by rw [hv.held]; omega) (by rw [hv.wbits]; omega)]
  exact follows_emitFull (h.setWork (hv.shifted hn b))

/-- A code is pushed alike (R176). -/
theorem follows_pushBits (h : TwinWith L (WriterTwin i i' n 7) s s') (code : BitString)
    (hn : n + code.length < 2 ^ 64) : Res.Follows (TwinWith L (WriterTwin i i' (n + code.length) 7))
      (forEach code pushBit s) (forEach code pushBit s') := by
  induction code generalizing n s s' with
  | nil => exact .ok h
  | cons b code ih =>
    rw [List.length_cons] at hn ⊢
    rw [show n + (code.length + 1) = n + 1 + code.length by omega]
    exact follows_bind (follows_pushBit h (by omega) b) fun _ _ _ h => ih h (by omega)

/-- The held bits are written alike (R177). -/
theorem follows_emitHeld (h : TwinWith L (WriterTwin i i' n 7) s s') :
    Res.Follows (TwinWith L (WriterTwin i i' n 7)) (emitHeld s) (emitHeld s') := by
  have hv := h.view
  have hle := hv.heldLe
  unfold emitHeld paddedByte
  rw [hv.held, hv.acc]
  refine follows_ite (fun _ => ?_) fun _ => .ok h
  rw [if_pos (by omega), Res.bind_ok, if_pos (by omega), Res.bind_ok]
  exact follows_bind (follows_putOut h _) fun _ u u' hu =>
    .ok (hu.setWork { hu.view with acc := rfl, held := rfl, heldLe := Nat.zero_le _ })

/-- Both runs pass FIN's guard, or both do not (R177, R181). -/
theorem follows_fin (h : TwinWith L (WriterTwin i i' n 7) s s') :
    Res.Follows (TwinWith L (WriterTwin i i' n 7)) (fin s) (fin s') := by
  refine follows_bind (follows_emitHeld h) fun _ u u' hu => ?_
  rw [hu.view.wbits, hu.view.tbits]
  exact follows_ite (fun _ => .ok hu) fun _ => .raise

end Writer

end Sys2Proof.Proofs

namespace Sys2Proof.Proofs

open Sys2Proof.Machine Sys2Proof.Safety Sys2Proof.Reference

/-! ### HSER, PAYLOAD and FIN in two runs -/

/-- The writers of two runs with the same header to write. -/
structure HeaderTwin (i i' : Word) (w w' : Work) : Prop extends WriterTwin i i' 0 7 w w' where
  freq : w'.freq = w.freq
  scount : w'.scount = w.scount
  vbits : w'.vbits = w.vbits

/-- The whole header is written alike (R191). -/
theorem follows_putHeader {L : Prop} {i i' : Word} {s s' : State}
    (h : TwinWith L (HeaderTwin i i') s s') :
    Res.Follows (TwinWith L (HeaderTwin i i')) (putHeader s) (putHeader s') := by
  unfold putHeader
  rw [h.view.scount]
  refine follows_bind (follows_putOutN h _ _) fun _ u u' hu => ?_
  have hrows : u'.work.freqRows = u.work.freqRows := by
    unfold Work.freqRows
    rw [hu.view.freq]
  rw [hrows]
  refine follows_bind (follows_forEach (fun row _ _ h => follows_putPair h row) _ hu) fun _ v v' hv => ?_
  rw [hv.view.vbits]
  refine follows_bind (follows_putOut hv _) fun _ x x' hx => ?_
  rw [hx.view.tbits]
  exact follows_putOutN hx _ _

/-- Two tables with the same entries are the same. -/
theorem freq_ext {w w' : Work} (h : ∀ b, w'.freqAt b = w.freqAt b) : w'.freq = w.freq := by
  rw [← Vector.toList_inj, freq_toList, freq_toList, funext h]

theorem code_ext {w w' : Work} (h : ∀ b, w'.codeAt b = w.codeAt b) : w'.code = w.code := by
  rw [← Vector.toList_inj, code_toList, code_toList, funext h]

/-- A tree with at most 256 Leaves gives no code of more than 255 bits (R9, R159). -/
theorem cbits_length_le {w : Work} {T : HTree} (hc : ∀ b, w.codeAt b = T.code b) (hT : T.syms.length ≤ 256)
    (b : Byte) : (w.cbits b).length ≤ 255 := by
  unfold Work.cbits
  rw [hc]
  cases hp : T.code b with
  | none => exact Nat.zero_le _
  | some p => exact (HTree.code_length hp hT).2

section Tables
variable {s s' : State} {inp : List Byte} {T : HTree} (h : TablesReady s inp T) (h' : TablesReady s' inp T)
include h h'

theorem TablesReady.freq_eq : s'.work.freq = s.work.freq :=
  freq_ext fun b => BitVec.eq_of_toNat_eq ((h'.freq b).trans (h.freq b).symm)

theorem TablesReady.code_eq : s'.work.code = s.work.code := code_ext fun b => (h'.code b).trans (h.code b).symm

/-- The registers of the header come from the tables alone (R191 to R194). -/
theorem TablesReady.headerTwin (hT : T.syms.length ≤ 256) :
    HeaderTwin s.work.iptr s'.work.iptr (headerWork s.work) (headerWork s'.work) := by
  have hf := h.freq_eq h'
  have hc := h.code_eq h'
  have hd : distinctSymbols s'.work = distinctSymbols s.work := by unfold distinctSymbols; rw [hf]
  have hb : bitSum s'.work = bitSum s.work := by unfold bitSum; rw [hf, hc]
  refine ⟨⟨h'.acc.trans h.acc.symm, h'.held.trans h.held.symm, h'.wbits.trans h.wbits.symm, ?_, hc, ?_, ?_,
    cbits_length_le (w := headerWork s.work) h.code hT, rfl, rfl⟩, hf, ?_, ?_⟩
  · exact congrArg (BitVec.ofNat 64) hb
  · exact (congrArg BitVec.toNat h.held).le.trans (Nat.zero_le 7)
  · exact congrArg BitVec.toNat h.wbits
  · exact congrArg (BitVec.ofNat 32) hd
  · exact congrArg (fun n => BitVec.ofNat 8 ((n - 1) % 8 + 1)) hb

end Tables

section Tail
variable {L : Prop} {s s' : State}

/-- FIN and END (R177, R106). -/
theorem endAlike_fin {i : Word} {n : Nat} (h : TwinWith L (WriterTwin i i n 7) s s') (hp : s.phase = 0x1B)
    (hp' : s'.phase = 0x1B) : EndAlike L s s' :=
  endAlike_micro runsRule_fin rfl h.twin hp hp' (fun _ => noStop_fin s) (follows_fin h) fun _ _ _ hu =>
    endAlike_gotoEnd hu.twin 0

/-- PUSHC pushes the same code (R176). -/
theorem follows_pushc {i : Word} {n : Nat} (h : TwinWith L (WriterTwin i i n 7) s s') (hn : n + 255 < 2 ^ 64) :
    Res.Follows (fun u u' => ∃ m ≤ n + 255, TwinWith L (WriterTwin i i m 7) u u') (pushc s) (pushc s') := by
  unfold pushc
  rw [h.view.iptr, h.view.iptr']
  refine follows_bind (follows_getIn h _) fun b u u' hu => ?_
  have hlen := hu.view.short b
  rw [hu.view.cbits]
  exact follows_mono (follows_pushBits hu _ (by omega)) fun _ _ h => ⟨_, by omega, h⟩

/-- PAYLOAD's loop over what is left of IN (R180). -/
theorem endAlike_payload {i : Word} {n : Nat} (h : TwinWith L (WriterTwin i i n 7) s s') (hp : s.phase = 0x1A)
    (hp' : s'.phase = 0x1A) (hi : i.toNat < s.inLen.toNat) (hn : n ≤ 255 * i.toNat) (hl : s.inLen.toNat ≤ 2 ^ 56) :
    EndAlike L s s' := by
  induction hk : s.inLen.toNat - i.toNat generalizing i n s s' with
  | zero => omega
  | succ k ih =>
    refine endAlike_micro runsRule_pushc rfl h.twin hp hp'
      (fun hL => noStop_pushc (h.twin.filled hL) (by rw [h.view.iptr]; exact hi)) (follows_pushc h (by omega))
      fun u u' hok hu => ?_
    obtain ⟨m, hm, hu⟩ := hu
    have hlen := ((framed_pushc s).ok () u hok).inLen
    have hi1 : i.toNat + 1 ≤ u.inLen.toNat := by rw [hlen]; exact hi
    have hnext := iptr_add_one (s := u) (by rw [hu.view.iptr]; exact hi1)
    rw [hu.view.iptr] at hnext
    rw [afterPushc_eq (by rw [hu.view.iptr]; exact hi1),
      afterPushc_eq (by rw [hu.view.iptr', hu.twin.inLen]; exact hi1), hu.view.iptr, hu.view.iptr', hu.twin.inLen]
    have hv := hu.setWork (hu.view.setIptr (i + 1))
    by_cases hlast : i.toNat + 1 < u.inLen.toNat
    · rw [if_pos hlast]
      rw [← hnext] at hlast
      exact ih (hv.setPhase _ _) rfl rfl hlast (by omega) (by change u.inLen.toNat ≤ _; rw [hlen]; exact hl)
        (by change u.inLen.toNat - _ = _; rw [hlen]; omega)
    · rw [if_neg hlast]
      exact endAlike_fin (hv.setPhase _ _) rfl rfl

/-- HSER writes the same header (R191). -/
theorem follows_hser {inp : List Byte} {T : HTree} (h : TablesReady s inp T) (h' : TablesReady s' inp T)
    (ht : Twin L s s') (hT : T.syms.length ≤ 256) (h1 : 1 ≤ bitSum s.work) (h2 : bitSum s.work < 2 ^ 64) :
    Res.Follows (TwinWith L (WriterTwin s.work.iptr s'.work.iptr 0 7)) (hser s) (hser s') := by
  have hb : bitSum s'.work = bitSum s.work := by unfold bitSum; rw [h.freq_eq h', h.code_eq h']
  have hw : TwinWith L (HeaderTwin s.work.iptr s'.work.iptr) (s.setWork (headerWork s.work))
      (s'.setWork (headerWork s'.work)) := ⟨ht.setWork _ _, h.headerTwin h' hT⟩
  rw [hser_eq_putHeader, hser_eq_putHeader, headerRegs_eq h1 h2, headerRegs_eq (by omega) (by omega), Res.bind_ok,
    Res.bind_ok]
  exact follows_bind (follows_putHeader hw) fun _ _ _ hu => .ok (hu.setWork { hu.view.toWriterTwin with })

/-- ENCODE behind its tables (R101). -/
theorem endAlike_tables {inp : List Byte} {r : NodeIx} {T : HTree} (h : TablesReady s inp T) (h' : TablesReady s' inp T)
    (ht : Twin L s s') (hT : TreeOf inp r T) (hp : s.phase = 0x18) (hp' : s'.phase = 0x18) (hne : inp ≠ [])
    (hmax : inp.length ≤ 2 ^ 56) : EndAlike L s s' := by
  have hpos := List.length_pos_iff.2 hne
  have hpl := hT.payload_length
  have hb := bitSum_eq_payload h.freq h.code
  have hlen := h.input.length
  refine endAlike_micro runsRule_hser rfl ht hp hp' (fun _ => noStop_hser s)
    (follows_hser h h' ht hT.size (by omega) (by omega)) fun u u' hok hu => ?_
  have hul := ((framed_hser s).ok () u hok).inLen
  have hu0 : 0 < u.inLen.toNat := by rw [hul]; omega
  rw [afterHser_eq, afterHser_eq, hu.twin.inLen, if_pos hu0]
  exact endAlike_payload ((hu.setWork (hu.view.setIptr 0)).setPhase _ _) rfl rfl hu0 (Nat.zero_le _)
    (by change u.inLen.toNat ≤ _; rw [hul]; omega)

end Tail

/-! ### A whole ENCODE in two runs -/

theorem facc_iptr (s : State) : Res.Ends (facc s) fun u => u.work.iptr = s.work.iptr :=
  ends_bind (P := fun u => u.work.iptr = s.work.iptr) (ends_getIn rfl) fun _ _ h =>
    ends_bind (P := fun u => u.work.iptr = s.work.iptr) (fun _ _ hu => by
      obtain rfl | rfl := store_state hu
      · exact h
      · exact h) fun _ _ h => ends_ok h

/-- FACC completes where its byte is there (R104). -/
theorem facc_completes {s : State} {b : Byte} (hi : s.work.iptr.toNat < s.inLen.toNat)
    (hb : s.inBuf.read s.work.iptr.toNat = some b) : ∃ u, facc s = .ok () u := by
  have h : Res.Completes (facc s) := by
    rw [facc, getIn_of_read hi hb, Res.bind_ok]
    exact completes_bind (completes_store _ _ _ s) fun _ _ => completes_ok _ _
  obtain ⟨_, u, hu⟩ := h
  exact ⟨u, hu⟩

/-- FSCAN completes only where IN is filled from IPTR on (R57, R105). -/
theorem loaded_of_fscan {s t : State} (hsub : s.sub = none) (hp : s.phase = 0x11)
    (hi : s.work.iptr.toNat < s.inLen.toNat) (ht : CompletesIn s t) {a : Nat} (ha : s.work.iptr.toNat ≤ a)
    (hal : a < s.inLen.toNat) : (s.inBuf.read a).isSome = true := by
  induction hk : s.inLen.toNat - s.work.iptr.toNat generalizing s with
  | zero => omega
  | succ k ih =>
    have hstep : step s = settle 0x11 (facc s) afterFacc := step_of_phase (i := .facc) hsub hp rfl
    cases hb : s.inBuf.read s.work.iptr.toNat with
    | none =>
      have hx : facc s = .stop (.inUnwritten s.work.iptr.toNat) := by
        simp only [facc, getIn, if_pos hi, hb, Res.bind_stop]
      rw [hx, settle_stop] at hstep
      exact absurd ht (not_completesIn_of_fault hstep)
    | some b =>
      obtain rfl | hne := eq_or_ne a s.work.iptr.toNat
      · rw [hb]
        rfl
      · obtain ⟨u, hx⟩ := facc_completes hi hb
        have hf := (framed_facc s).ok () u hx
        have hui := facc_iptr s () u hx
        have hmore : u.work.iptr.toNat + 1 < u.inLen.toNat := by rw [hui, hf.inLen]; omega
        have hnext : (u.work.iptr + 1).toNat = s.work.iptr.toNat + 1 := by rw [iptr_add_one hmore.le, hui]
        rw [hx, settle_ok, afterFacc_more hmore] at hstep
        rw [← hf.inBuf]
        refine ih (s := (u.setWork (u.work.setIptr (u.work.iptr + 1))).setPhase 0x11) (hf.sub.trans hsub) rfl ?_
          ((Reaches.single hstep (by decide : (0x11 : Byte) ≠ 0x00)).completesIn_rest ht) ?_ ?_ ?_
        all_goals
          simp only [State.setPhase_work, State.setWork_work, Work.setIptr_iptr, State.setPhase_inLen,
            State.setWork_inLen, hnext, hf.inLen]
          omega

/-- The two states in which the same command is issued agree on what the host passed (R111). -/
structure SameArguments (s s' : State) : Prop where
  inLen : s'.inLen = s.inLen
  outCap : s'.outCap = s.outCap
  inOk : s'.inOk = s.inOk
  maxInLen : s'.maxInLen = s.maxInLen
  input : ∀ a, a < s.inLen.toNat → s'.inBuf.read a = s.inBuf.read a

/-- ENCODE of a legal input completes only where IN is filled, for FSCAN reads all of it (R105). -/
theorem loaded_of_encode {s t : State} (h : Issued 0x01 s) (hok : s.inOk = 1) (hl : s.inLen.toNat ≤ s.maxInLen.val)
    (ht : CompletesIn s t) : Loaded s := by
  intro a ha
  set c := clearedState 0x01 s
  set f := (c.setWork (c.work.setIptr 0)).setPhase 0x11
  have hpos : 0 < s.inLen.toNat := Nat.zero_lt_of_lt ha
  have hclr : afterClr c = f := (if_pos rfl).trans (if_pos hpos)
  have hr := issued_reaches (i := .encode) rfl h hok hl (by
    change (afterClr c).phase ≠ 0x00
    rw [hclr]
    exact (by decide : (0x11 : Byte) ≠ 0x00))
  change Reaches s (afterClr c) at hr
  rw [hclr] at hr
  exact loaded_of_fscan (s := f) h.noCall rfl hpos (hr.completesIn_rest ht) (Nat.zero_le a) ha

/-- The byte string in IN is the same. -/
theorem InputIs.of_sameArguments {s s' : State} {inp : List Byte} (h : InputIs s inp) (ha : SameArguments s s') :
    InputIs s' inp :=
  ⟨by rw [ha.inLen, h.length], fun k hk => by
    rw [← h.stands k hk, Nat.zero_add, ha.input k (h.length ▸ hk)]⟩

theorem twin_of_tables {L : Prop} {s s' : State} {inp : List Byte} {T : HTree} (hL : L → Loaded s)
    (h : TablesReady s inp T) (h' : TablesReady s' inp T) (hcap : s'.outCap = s.outCap) : Twin L s s' where
  filled := hL
  sub := h.sub
  sub' := h'.sub
  op := h'.op.trans h.op.symm
  inLen := BitVec.eq_of_toNat_eq (h'.input.length.symm.trans h.input.length)
  outCap := hcap
  outLen := h'.outLen.trans h.outLen.symm
  input := fun a ha => by
    have hk : a < inp.length := h.input.length ▸ ha
    rw [← Nat.zero_add a, h'.input.stands a hk, h.input.stands a hk]
  output := fun a ha => by
    rw [h.outLen] at ha
    exact absurd ha (Nat.not_lt_zero a)

/-- Two ENCODEs of the same input that pass the prechecks (R101, R111). -/
theorem endAlike_encode {s s' : State} (h : Issued 0x01 s) (h' : Issued 0x01 s') (ha : SameArguments s s')
    (hok : s.inOk = 1) (hl : s.inLen.toNat ≤ s.maxInLen.val) : EndAlike (Loaded s) s s' := by
  have hok' := ha.inOk.trans hok
  have hl' : s'.inLen.toNat ≤ s'.maxInLen.val := by rw [ha.inLen, ha.maxInLen]; exact hl
  by_cases h0 : s.inLen = 0
  · obtain ⟨t, ht, hst, hout⟩ := encode_empty h hok h0
    obtain ⟨t', ht', hst', hout'⟩ := encode_empty h' hok' (ha.inLen.trans h0)
    refine .inl ⟨t, t', ht, ht', hst'.trans hst.symm, hout'.trans hout.symm, fun a hlt => ?_⟩
    rw [hout] at hlt
    exact absurd hlt (Nat.not_lt_zero a)
  · by_cases hload : Loaded s
    · obtain ⟨inp, hin⟩ := exists_input hload
      have hne : inp ≠ [] := by
        rintro rfl
        exact h0 (BitVec.eq_of_toNat_eq hin.length.symm)
      have hmax : inp.length ≤ 2 ^ 56 := by
        have := s.maxInLen.isLt
        rw [hin.length]
        omega
      obtain ⟨r, T, hT⟩ := exists_treeOf hne
      obtain ⟨t, ht, hp, hready, hcap⟩ := encode_tables h hin hok hl hT hne
      obtain ⟨t', ht', hp', hready', hcap'⟩ := encode_tables h' (hin.of_sameArguments ha) hok' hl' hT hne
      have hlt : Loaded t := fun a hat => by
        have hk : a < inp.length := hready.input.length ▸ hat
        rw [← Nat.zero_add a, hready.input.stands a hk, List.getElem?_eq_getElem hk]
        rfl
      exact endAlike_of_reaches ht ht' (endAlike_tables hready hready'
        (twin_of_tables (fun _ => hlt) hready hready' (by rw [hcap', hcap, ha.outCap])) hT hp hp' hne hmax)
    · exact .inr ⟨hload, fun t ht => hload (loaded_of_encode h hok hl ht)⟩

end Sys2Proof.Proofs

namespace Sys2Proof.Proofs

open Sys2Proof.Machine Sys2Proof.Safety Sys2Proof.Reference

/-! ### HPAR in two runs -/

/-- What CLR leaves of BUILD and of the reader (R103). -/
structure Unbuilt (w : Work) : Prop where
  nnodes : w.nnodes = 0
  heap : w.heap = []
  hsize : w.hsize = 0
  rbits : w.rbits = 0

/-- Two runs of DECODE with the same frequency table, before BUILD. -/
structure UnbuiltTwin (w w' : Work) : Prop where
  freq : w'.freq = w.freq
  left : Unbuilt w
  right : Unbuilt w'

theorem UnbuiltTwin.freqSum_eq {w w' : Work} (h : UnbuiltTwin w w') : freqSum w' = freqSum w := by
  unfold freqSum
  rw [h.freq]

/-- The same, with a sum that fits 64 bits (R201). -/
structure SummedTwin (w w' : Work) : Prop extends UnbuiltTwin w w' where
  sum : freqSum w < 2 ^ 64

/-- The same, with the payload that the header declares. -/
structure ParsedTwin (w w' : Work) : Prop extends SummedTwin w w' where
  tbits : w'.tbits = w.tbits
  pbase : w'.pbase = w.pbase

section Header
variable {L : Prop} {s s' : State}

theorem follows_getPair (h : TwinWith L UnbuiltTwin s s') (k : Nat) :
    Res.Follows (TwinWith L UnbuiltTwin) (getPair k s) (getPair k s') :=
  follows_bind (follows_getIn h _) fun b _ _ h => follows_bind (follows_memReadIn h _ _) fun v _ _ h =>
    .ok (h.setWork ⟨congrArg (Vector.set · b.toNat (BitVec.ofNat 64 v) b.isLt) h.view.freq, { h.view.left with },
      { h.view.right with }⟩)

theorem follows_parseBits (h : TwinWith L SummedTwin s s') (n : Nat) :
    Res.Follows (TwinWith L ParsedTwin) (parseBits n s) (parseBits n s') := by
  unfold parseBits
  refine follows_bind (follows_getIn h _) fun vbits u u' hu => ?_
  have hw := hu.setWork (V' := SummedTwin) (w := u.work.setVbits vbits) (w' := u'.work.setVbits vbits)
    ⟨⟨hu.view.freq, { hu.view.left with }, { hu.view.right with }⟩, hu.view.sum⟩
  refine follows_ite (fun _ => .raise) fun _ => follows_bind (follows_memReadIn hw _ _) fun tbits v v' hv => ?_
  rw [putWork_eq, putWork_eq, Res.bind_ok, Res.bind_ok, State.setWork_inLen, State.setWork_inLen, hv.twin.inLen]
  exact follows_ite (fun _ => .raise) fun _ => .ok (hv.setWork
    ⟨⟨⟨hv.view.freq, { hv.view.left with }, { hv.view.right with }⟩, hv.view.sum⟩, rfl, rfl⟩)

theorem follows_parsePairs (h : TwinWith L UnbuiltTwin s s') (n : Nat) :
    Res.Follows (TwinWith L ParsedTwin) (parsePairs n s) (parsePairs n s') := by
  unfold parsePairs
  rw [h.twin.inLen]
  refine follows_ite (fun _ => .raise) fun _ =>
    follows_bind (follows_forEach (fun k _ _ h => follows_getPair h k) _ h) fun _ u u' hu => ?_
  rw [hu.view.freqSum_eq]
  exact follows_ite (fun _ => .raise) fun hlt => follows_parseBits ⟨hu.twin, hu.view, Nat.not_le.1 hlt⟩ n

/-- HPAR reads the same header (R196). -/
theorem follows_hpar (h : TwinWith L UnbuiltTwin s s') :
    Res.Follows (TwinWith L ParsedTwin) (hpar s) (hpar s') := by
  unfold hpar
  rw [h.twin.inLen]
  refine follows_ite (fun _ => .raise) fun _ => follows_bind (follows_memReadIn h _ _) fun v u u' hu => ?_
  have hw := hu.setWork (V' := UnbuiltTwin) (w := u.work.setScount (BitVec.ofNat 32 v))
    (w' := u'.work.setScount (BitVec.ofNat 32 v)) ⟨hu.view.freq, { hu.view.left with }, { hu.view.right with }⟩
  exact follows_ite (fun _ => .raise) fun _ => follows_parsePairs hw _

end Header

/-! ### BUILD of a DECODE -/

/-- DECODE's BUILD of an empty table finds no tree (R139, R142). -/
theorem decode_builds_nothing {s : State} (hsub : s.sub = none) (hop : s.op = 0x02) (h : Unbuilt s.work)
    (hu : usedSyms (freqOf s.work) = []) :
    ∃ w, Reaches (leafScan 0 s) ((s.setWork w).setPhase 0x20) ∧ BuildOnly s.work w ∧ w.root = Config.nil := by
  set u := (s.setWork (s.work.setScan 256)).setPhase 0x16
  have hnone : nextSymbol 0 s.work = none := nextSymbol_of_used (bs := []) hu (fun _ => nofun) fun _ => nofun
  have hscan : leafScan 0 s = u := by
    rw [leafScan_none hnone, if_neg (by rw [h.hsize]; decide)]
  have hroot : root u = .ok () (u.setWork (u.work.setRoot Config.nil)) := if_pos h.hsize
  have hafter : afterRoot (u.setWork (u.work.setRoot Config.nil)) =
      (s.setWork (u.work.setRoot Config.nil)).setPhase 0x20 :=
    if_neg (by change ¬ s.op = 0x01; rw [hop]; decide)
  refine ⟨u.work.setRoot Config.nil, ?_, rfl, rfl⟩
  rw [hscan, ← hafter]
  exact reaches_of_ok (i := .root) hsub rfl rfl rfl hroot (afterRoot_busy _)

/-- DECODE's BUILD of a nonzero table makes the tree that the table alone determines (R137 to R142, R147). -/
theorem decode_builds_tree {s : State} {r : NodeIx} {T : HTree} (hsub : s.sub = none) (hop : s.op = 0x02)
    (h : Unbuilt s.work) (hsum : freqSum s.work < 2 ^ 64) (hu : usedSyms (freqOf s.work) ≠ [])
    (hT : huffForest (freqOf s.work) = [(r, T)]) :
    ∃ w, Reaches (leafScan 0 s) ((s.setWork w).setPhase 0x20) ∧ BuildOnly s.work w ∧ w.root = r ∧ r ≠ Config.nil ∧
      Holds w r T := by
  obtain ⟨w, hw, rest⟩ := build_reaches hsub h.nnodes h.heap h.hsize hu ((freqSum_eq s.work).symm.trans_lt hsum) hT
  refine ⟨w, ?_, rest⟩
  rwa [show afterRoot (s.setWork w) = (s.setWork w).setPhase 0x20 from
    if_neg (by change ¬ s.op = 0x01; rw [hop]; decide)] at hw

/-! ### WALK1 on a tree -/

/-- What WALK1 emits on a bit at the subtree `X` of `T`, and the subtree at which CURSOR then stands (R218, R220). -/
def HTree.follow (T : HTree) : HTree → Bit → Option Byte × HTree
  | .leaf c _, _ => (some c, T)
  | .node l r, b =>
    match if b = 0 then l else r with
    | .leaf c _ => (some c, T)
    | .node l' r' => (none, .node l' r')

/-- A node of the arena stands for one tree only. -/
theorem Holds.unique {w : Work} {i : NodeIx} {T T' : HTree} (h : Holds w i T) (h' : Holds w i T') : T = T' := by
  induction T generalizing i T' with
  | leaf b n =>
    obtain ⟨-, nd, hnd, ht, rfl, rfl⟩ := h
    cases T' with
    | leaf b' n' =>
      obtain ⟨-, nd', hnd', -, rfl, rfl⟩ := h'
      cases hnd.symm.trans hnd'
      rfl
    | node l r =>
      obtain ⟨-, nd', hnd', ht', -⟩ := h'
      cases hnd.symm.trans hnd'
      cases ht.symm.trans ht'
  | node l r ihl ihr =>
    obtain ⟨-, nd, hnd, ht, -, hl, hr⟩ := h
    cases T' with
    | leaf b' n' =>
      obtain ⟨-, nd', hnd', ht', -⟩ := h'
      cases hnd.symm.trans hnd'
      cases ht.symm.trans ht'
    | node l' r' =>
      obtain ⟨-, nd', hnd', -, -, hl', hr'⟩ := h'
      cases hnd.symm.trans hnd'
      rw [ihl hl hl', ihr hr hr']

/-- ROOT stands for the tree `T` and CURSOR for its subtree `X`: `T` itself, or an inner node below it (R218). -/
structure WalkAt (T X : HTree) (w : Work) : Prop where
  root : Holds w w.root T
  cursor : Holds w w.cursor X
  place : (X = T ∧ w.cursor = w.root) ∨ X.height < T.height ∧ ∃ l r, X = .node l r

/-- CURSOR is ROOT exactly where it stands for the whole tree. -/
theorem WalkAt.cursor_eq_root_iff {T X : HTree} {w : Work} (h : WalkAt T X w) : w.cursor = w.root ↔ X = T := by
  refine ⟨fun hc => (hc ▸ h.cursor).unique h.root, ?_⟩
  rintro rfl
  obtain ⟨-, hc⟩ | ⟨hlt, -⟩ := h.place
  · exact hc
  · exact absurd hlt (Nat.lt_irrefl _)

/-- Only the tree registers and CURSOR say where the walk stands. -/
theorem WalkAt.congr {T X : HTree} {w w' : Work} (h : WalkAt T X w) (hn : w'.nnodes = w.nnodes) (hw : w'.node = w.node)
    (hr : w'.root = w.root) (hc : w'.cursor = w.cursor) : WalkAt T X w' where
  root := by rw [hr]; exact h.root.congr hn hw
  cursor := by rw [hc]; exact h.cursor.congr hn hw
  place := by rw [hr, hc]; exact h.place

theorem WalkAt.rewound {T X : HTree} {w : Work} (h : WalkAt T X w) : WalkAt T T (w.setCursor w.root) :=
  ⟨h.root.congr rfl rfl, h.root.congr rfl rfl, .inl ⟨rfl, rfl⟩⟩

/-- Emits a Symbol where there is one. -/
def emit : Option Byte → State → Res Unit
  | some c, s => putOut c s
  | none, s => .ok () s

/-- PutOut does not touch the working state, so that CURSOR may be written from the state before it. -/
theorem putOut_then_setCursor (c : Byte) (s : State) (f : Work → NodeIx) :
    ((putOut c s).bind fun _ u => putWork (u.work.setCursor (f u.work)) u) =
      (putOut c s).bind fun _ u => .ok () (u.setWork (u.work.setCursor (f s.work))) := by
  obtain ⟨-, he⟩ | ⟨-, he⟩ := putOut_cases c s
  · rw [he]
    rfl
  · rw [he]
    rfl

/-- An edge to a Leaf emits its Symbol and resets CURSOR, with OUT full or not (R218). -/
theorem walkEdge_toLeaf {s : State} {here nd : Node} (h : s.work.nodeAt s.work.cursor = some here)
    (hn : s.work.nodeAt (here.child s.work.bit) = some nd) (ht : nd.tag = .leaf) :
    walkEdge s = (putOut nd.sym (s.setWork (s.work.setCursor (here.child s.work.bit)))).bind fun _ u => rewind u := by
  have hn' : (s.work.setCursor (here.child s.work.bit)).nodeAt (here.child s.work.bit) = some nd := hn
  simp only [walkEdge, getNode, h, Res.bind_ok, putWork_eq, State.setWork_work, Work.setCursor_cursor, hn', ht]

/-- With a single-leaf tree WALK1 emits the root's Symbol, with OUT full or not (R220). -/
theorem walk1_singleLeaf {s : State} {top : Node} (h : s.work.nodeAt s.work.root = some top) (ht : top.tag = .leaf) :
    walk1 s = putOut top.sym s := by
  simp only [walk1, getNode, h, Res.bind_ok, ht]

/-- With a single-leaf tree the Symbol is emitted and CURSOR stays (R220). -/
theorem walk1_follows_leaf {c : Byte} {n : Nat} {X : HTree} {s : State} (h : WalkAt (.leaf c n) X s.work) :
    X = .leaf c n ∧ walk1 s = (emit (some c) (s.setWork (s.work.setCursor s.work.cursor))).bind fun _ u =>
      .ok () (u.setWork (u.work.setCursor s.work.cursor)) := by
  obtain ⟨-, top, htop, ht, rfl, -⟩ := h.root
  refine ⟨h.place.elim And.left fun hlt => absurd hlt.1 (Nat.not_lt_zero _), ?_⟩
  rw [walk1_singleLeaf htop ht]
  change _ = (putOut top.sym s).bind _
  obtain ⟨-, he⟩ | ⟨-, he⟩ := putOut_cases top.sym s
  · rw [he]
    rfl
  · rw [he]
    rfl

/-- Below an Internal root CURSOR stands for an inner node. -/
theorem WalkAt.inner {l₀ r₀ X : HTree} {w : Work} (h : WalkAt (.node l₀ r₀) X w) :
    X.height ≤ (HTree.node l₀ r₀).height ∧ ∃ l r, X = .node l r :=
  h.place.elim (fun he => ⟨he.1 ▸ le_rfl, l₀, r₀, he.1⟩) fun hlt => ⟨hlt.1.le, hlt.2⟩

theorem HTree.height_child_lt (l r : HTree) (b : Bit) : (if b = 0 then l else r).height < (node l r).height := by
  rw [HTree.height]
  split
  · omega
  · omega

/-- The walk's state decides what WALK1 emits and where CURSOR then stands; `i` is where CURSOR stands meanwhile. -/
theorem walk1_follows {T X : HTree} {s : State} (h : WalkAt T X s.work) :
    ∃ i j, walk1 s = ((emit (T.follow X s.work.bit).1 (s.setWork (s.work.setCursor i))).bind
        fun _ u => .ok () (u.setWork (u.work.setCursor j))) ∧
      WalkAt T (T.follow X s.work.bit).2 (s.work.setCursor j) := by
  cases T with
  | leaf c n =>
    obtain ⟨rfl, hw⟩ := walk1_follows_leaf h
    exact ⟨_, _, hw, h.congr rfl rfl rfl rfl⟩
  | node l₀ r₀ =>
    obtain ⟨hle, l, r, rfl⟩ := h.inner
    obtain ⟨-, here, hhere, -, -, hl, hr⟩ := h.cursor
    have hchild := holds_child hl hr s.work.bit
    have hlt := HTree.height_child_lt l r s.work.bit
    rw [walk1_internal h.root, HTree.follow]
    generalize (if s.work.bit = 0 then l else r) = Y at hchild hlt
    cases Y with
    | leaf c n =>
      obtain ⟨-, nd, hnd, ht, rfl, -⟩ := hchild
      exact ⟨here.child s.work.bit, s.work.root, (walkEdge_toLeaf hhere hnd ht).trans
        (putOut_then_setCursor nd.sym (s.setWork (s.work.setCursor (here.child s.work.bit))) Work.root), h.rewound⟩
    | node l' r' =>
      obtain ⟨-, nd, hnd, ht, -⟩ := id hchild
      exact ⟨_, here.child s.work.bit, walkEdge_internal hhere hnd ht, h.root.congr rfl rfl, hchild.congr rfl rfl,
        .inr ⟨hlt.trans_le hle, l', r', rfl⟩⟩

/-! ### The walk in two runs -/

/-- The walk before payload bit `k` of `n`, in a payload that begins at `p` (R216, R222). -/
structure ReaderAt (T X : HTree) (p n k : Word) (w : Work) : Prop extends WalkAt T X w where
  pbase : w.pbase = p
  tbits : w.tbits = n
  rbits : w.rbits = k

/-- Both walks stand at the same place of the same tree. -/
def ReaderTwin (T X : HTree) (p n k : Word) (w w' : Work) : Prop := ReaderAt T X p n k w ∧ ReaderAt T X p n k w'

section Walk
variable {L : Prop} {T X : HTree} {p n k : Word} {s s' : State}

theorem follows_emit {V : Work → Work → Prop} (h : TwinWith L V s s') (o : Option Byte) :
    Res.Follows (TwinWith L V) (emit o s) (emit o s') := by
  cases o with
  | some c => exact follows_putOut h c
  | none => exact .ok h

theorem noStop_emit (o : Option Byte) (s : State) : Res.NoStop (emit o s) := by
  cases o with
  | some c => exact noStop_putOut c s
  | none => exact noStop_ok () s

theorem noStop_walk1_at (h : WalkAt T X s.work) : Res.NoStop (walk1 s) := by
  obtain ⟨i, j, hw, -⟩ := walk1_follows h
  rw [hw]
  exact noStop_bind (noStop_emit _ _) fun _ _ _ => noStop_ok _ _

/-- WALK1 takes the same edge (R218). -/
theorem follows_walk1 (h : TwinWith L (ReaderTwin T X p n k) s s') (hb : s'.work.bit = s.work.bit) :
    Res.Follows (fun u u' => ∃ Y, TwinWith L (ReaderTwin T Y p n k) u u') (walk1 s) (walk1 s') := by
  obtain ⟨hl, hr⟩ := h.view
  obtain ⟨i, j, hw, hat⟩ := walk1_follows hl.toWalkAt
  obtain ⟨i', j', hw', hat'⟩ := walk1_follows hr.toWalkAt
  rw [hb] at hw' hat'
  rw [hw, hw']
  have hstart : TwinWith L (fun w w' => w = s.work.setCursor i ∧ w' = s'.work.setCursor i')
      (s.setWork (s.work.setCursor i)) (s'.setWork (s'.work.setCursor i')) := h.setWork ⟨rfl, rfl⟩
  refine follows_bind (follows_emit hstart _) fun _ u u' hu =>
    .ok ⟨(T.follow X s.work.bit).2, hu.twin.setWork _ _, ?_⟩
  obtain ⟨he, he'⟩ := hu.view
  rw [State.setWork_work, State.setWork_work, he, he']
  exact ⟨⟨hat, hl.pbase, hl.tbits, hl.rbits⟩, ⟨hat', hr.pbase, hr.tbits, hr.rbits⟩⟩

/-- GETB fetches the same bit (R216). -/
theorem follows_getb (h : TwinWith L (ReaderTwin T X p n k) s s') (hk : k.toNat + 1 < 2 ^ 64) :
    Res.Follows (fun u u' => TwinWith L (ReaderTwin T X p n (k + 1)) u u' ∧ u'.work.bit = u.work.bit)
      (getb s) (getb s') := by
  obtain ⟨hl, hr⟩ := h.view
  have hnext : BitVec.ofNat 64 (k.toNat + 1) = k + 1 := by bv_omega
  unfold getb
  rw [hl.pbase, hl.rbits, hr.pbase, hr.rbits]
  refine follows_bind (follows_getIn h _) fun y u u' hu => ?_
  obtain ⟨hul, hur⟩ := hu.view
  rw [store_fits hk, store_fits hk, Res.bind_ok, Res.bind_ok, hnext]
  exact .ok ⟨hu.setWork ⟨⟨hul.toWalkAt.congr rfl rfl rfl rfl, hul.pbase, hul.tbits, rfl⟩,
    ⟨hur.toWalkAt.congr rfl rfl rfl rfl, hur.pbase, hur.tbits, rfl⟩⟩, rfl⟩

/-- Both walks end at ROOT, or both inside a code (R221). -/
theorem follows_wfin (h : TwinWith L (ReaderTwin T X p n k) s s') :
    Res.Follows (TwinWith L (ReaderTwin T X p n k)) (wfin s) (wfin s') := by
  obtain ⟨hl, hr⟩ := h.view
  have hiff := hl.toWalkAt.cursor_eq_root_iff
  have hiff' := hr.toWalkAt.cursor_eq_root_iff
  unfold wfin
  by_cases hX : X = T
  · rw [if_pos (hiff.2 hX), if_pos (hiff'.2 hX)]
    exact .ok h
  · rw [if_neg (mt hiff.1 hX), if_neg (mt hiff'.1 hX)]
    exact .raise

theorem endAlike_wfin (h : TwinWith L (ReaderTwin T X p n k) s s') (hph : s.phase = 0x21) (hph' : s'.phase = 0x21) :
    EndAlike L s s' :=
  endAlike_micro runsRule_wfin rfl h.twin hph hph' (fun _ => noStop_wfin s) (follows_wfin h) fun _ _ _ hu =>
    endAlike_gotoEnd hu.twin 0

/-- The decode walk from payload bit `k` on (R222). -/
theorem endAlike_walk (h : TwinWith L (ReaderTwin T X p n k) s s')
    (hin : ∀ j < n.toNat, p.toNat + j / 8 < s.inLen.toNat) : EndAlike L (walkLoop s) (walkLoop s') := by
  rw [walkLoop_eq, walkLoop_eq, h.view.1.rbits, h.view.1.tbits, h.view.2.rbits, h.view.2.tbits]
  induction hm : n.toNat - k.toNat generalizing X k s s' with
  | zero =>
    rw [if_neg (by omega)]
    exact endAlike_wfin (h.setPhase _ _) rfl rfl
  | succ m ih =>
    have hlt : k.toNat < n.toNat := by omega
    have hnext : (k + 1).toNat = k.toNat + 1 := by have := n.isLt; bv_omega
    rw [if_pos hlt]
    refine endAlike_micro runsRule_getb rfl (h.twin.setPhase _ _) rfl rfl
      (fun hL => noStop_getb (s := s.setPhase 0x1D) (h.twin.filled hL) ?_)
      (follows_getb (h.setPhase _ _) (by have := n.isLt; omega)) fun u u' hok hu => ?_
    · rw [State.setPhase_work, h.view.1.pbase, h.view.1.rbits]
      exact hin _ hlt
    have hul := ((framed_getb (s.setPhase 0x1D)).ok () u hok).inLen
    obtain ⟨hu, hbit⟩ := hu
    refine endAlike_micro runsRule_walk1 rfl (hu.twin.setPhase _ _) rfl rfl
      (fun _ => noStop_walk1_at hu.view.1.toWalkAt) (follows_walk1 (hu.setPhase 0x1E 0x1E) hbit) fun v v' hok' hv => ?_
    have hvl := ((framed_walk1 (u.setPhase 0x1E)).ok () v hok').inLen
    obtain ⟨Y, hv⟩ := hv
    have hwalk := ih hv (by rw [hvl]; change ∀ j < _, _ < u.inLen.toNat; rw [hul]; exact hin) (by omega)
    rw [afterWalk1, afterWalk1, walkLoop_eq, walkLoop_eq, hv.view.1.rbits, hv.view.1.tbits, hv.view.2.rbits,
      hv.view.2.tbits]
    exact hwalk

end Walk

end Sys2Proof.Proofs

namespace Sys2Proof.Proofs

open Sys2Proof.Machine Sys2Proof.Safety Sys2Proof.Reference

/-! ### A whole DECODE in two runs -/

/-- BUILD found no tree, and the header declares `n` payload bits. -/
structure NoTreeAt (n : Word) (w : Work) : Prop where
  root : w.root = Config.nil
  tbits : w.tbits = n

/-- BUILD made the tree `T`, and the reader is as HPAR left it. -/
structure TreeAt (T : HTree) (p n : Word) (w : Work) : Prop where
  root : w.root ≠ Config.nil
  tree : Holds w w.root T
  pbase : w.pbase = p
  tbits : w.tbits = n
  rbits : w.rbits = 0

/-- WBEG puts CURSOR at ROOT (R217). -/
theorem TreeAt.begins {T : HTree} {p n : Word} {w : Work} (h : TreeAt T p n w) :
    ReaderAt T T p n 0 (w.setCursor w.root) where
  root := h.tree.congr rfl rfl
  cursor := h.tree.congr rfl rfl
  place := .inl ⟨rfl, rfl⟩
  pbase := h.pbase
  tbits := h.tbits
  rbits := h.rbits

section Decode
variable {L : Prop} {s s' : State}

theorem wbeg_of_tree (h : s.work.root ≠ Config.nil) :
    wbeg s = .ok () (s.setWork (s.work.setCursor s.work.root)) := if_neg h

theorem afterWbeg_of_tree (h : s.work.root ≠ Config.nil) :
    afterWbeg (s.setWork (s.work.setCursor s.work.root)) = walkLoop (s.setWork (s.work.setCursor s.work.root)) :=
  if_neg h

theorem afterWbeg_of_noTree (h : s.work.root = Config.nil) : afterWbeg s = gotoEnd 2 s := if_pos h

/-- Without a tree WBEG ends both commands alike (R217). -/
theorem endAlike_wbeg_noTree {n : Word} (h : TwinWith L (fun w w' => NoTreeAt n w ∧ NoTreeAt n w') s s')
    (hp : s.phase = 0x20) (hp' : s'.phase = 0x20) : EndAlike L s s' := by
  obtain ⟨hl, hr⟩ := h.view
  have hf : Res.Follows (TwinWith L fun w w' => NoTreeAt n w ∧ NoTreeAt n w') (wbeg s) (wbeg s') := by
    unfold wbeg
    rw [if_pos hl.root, if_pos hr.root, hl.tbits, hr.tbits]
    exact follows_ite (fun _ => .ok h) fun _ => .raise
  refine endAlike_micro runsRule_wbeg rfl h.twin hp hp' (fun _ => noStop_wbeg s) hf fun u u' _ hu => ?_
  rw [afterWbeg_of_noTree hu.view.1.root, afterWbeg_of_noTree hu.view.2.root]
  exact endAlike_gotoEnd hu.twin 2

/-- With a tree WBEG begins both walks (R217). -/
theorem endAlike_wbeg_tree {T : HTree} {p n : Word}
    (h : TwinWith L (fun w w' => TreeAt T p n w ∧ TreeAt T p n w') s s') (hp : s.phase = 0x20) (hp' : s'.phase = 0x20)
    (hin : ∀ j < n.toNat, p.toNat + j / 8 < s.inLen.toNat) : EndAlike L s s' := by
  obtain ⟨hl, hr⟩ := h.view
  refine endAlike_of_reaches (runsRule_wbeg.reaches rfl h.twin.sub hp (wbeg_of_tree hl.root))
    (runsRule_wbeg.reaches rfl h.twin.sub' hp' (wbeg_of_tree hr.root)) ?_
  rw [afterWbeg_of_tree hl.root, afterWbeg_of_tree hr.root]
  exact endAlike_walk (h.setWork ⟨hl.begins, hr.begins⟩) hin

theorem BuildOnly.tbits {w w' : Work} (h : BuildOnly w w') : w'.tbits = w.tbits := by rw [h]

theorem BuildOnly.pbase {w w' : Work} (h : BuildOnly w w') : w'.pbase = w.pbase := by rw [h]

theorem BuildOnly.rbits {w w' : Work} (h : BuildOnly w w') : w'.rbits = w.rbits := by rw [h]

theorem ParsedTwin.freqOf_eq {w w' : Work} (h : ParsedTwin w w') : freqOf w' = freqOf w := by
  unfold freqOf Work.freqAt
  rw [h.freq]

/-- BUILD and the walk behind the same header (R102). -/
theorem endAlike_build (h : TwinWith L ParsedTwin s s') (hop : s.op = 0x02) (hin : PayloadInside s) :
    EndAlike L (leafScan 0 s) (leafScan 0 s') := by
  have hv := h.view
  have hop' := h.twin.op.trans hop
  by_cases hu : usedSyms (freqOf s.work) = []
  · obtain ⟨w, hw, hb, hroot⟩ := decode_builds_nothing h.twin.sub hop hv.left hu
    obtain ⟨w', hw', hb', hroot'⟩ := decode_builds_nothing h.twin.sub' hop' hv.right (hv.freqOf_eq ▸ hu)
    refine endAlike_of_reaches hw hw' (endAlike_wbeg_noTree (n := s.work.tbits) ((h.setWork ?_).setPhase _ _) rfl rfl)
    exact ⟨⟨hroot, hb.tbits⟩, hroot', hb'.tbits.trans hv.tbits⟩
  · obtain ⟨⟨r, T⟩, hT, -⟩ := huffForest_spec hu
    obtain ⟨w, hw, hb, hroot, hnil, hh⟩ := decode_builds_tree h.twin.sub hop hv.left hv.sum hu hT
    obtain ⟨w', hw', hb', hroot', -, hh'⟩ := decode_builds_tree h.twin.sub' hop' hv.right
      (hv.freqSum_eq ▸ hv.sum) (hv.freqOf_eq ▸ hu) (hv.freqOf_eq ▸ hT)
    obtain ⟨hpb, htb⟩ := hin
    refine endAlike_of_reaches hw hw' (endAlike_wbeg_tree (T := T) (p := s.work.pbase) (n := s.work.tbits)
      ((h.setWork ?_).setPhase _ _) rfl rfl fun j hj => by
        change _ < s.inLen.toNat
        omega)
    exact ⟨⟨hroot.symm ▸ hnil, hroot.symm ▸ hh, hb.pbase, hb.tbits, hb.rbits.trans hv.left.rbits⟩,
      hroot'.symm ▸ hnil, hroot'.symm ▸ hh', hb'.pbase.trans hv.pbase, hb'.tbits.trans hv.tbits,
      hb'.rbits.trans hv.right.rbits⟩

/-- HPAR and what follows it (R102). -/
theorem endAlike_hpar (h : TwinWith L UnbuiltTwin s s') (hop : s.op = 0x02) (hp : s.phase = 0x1C)
    (hp' : s'.phase = 0x1C) : EndAlike L s s' :=
  endAlike_micro runsRule_hpar rfl h.twin hp hp' (fun hL => noStop_hpar (h.twin.filled hL)) (follows_hpar h)
    fun u _ hok hu => endAlike_build hu (((framed_hpar s).ok () u hok).op.trans hop) (payloadInside_hpar s () u hok)

/-- CLR leaves nothing of an earlier command that BUILD or the reader uses (R103). -/
theorem unbuilt_clearWork (w : Work) : Unbuilt (clearWork w) := ⟨rfl, rfl, rfl, rfl⟩

theorem unbuiltTwin_clearWork (w w' : Work) : UnbuiltTwin (clearWork w) (clearWork w') :=
  ⟨rfl, unbuilt_clearWork w, unbuilt_clearWork w'⟩

end Decode

/-- Behind CLR two commands with the same arguments agree (R103, R111). -/
theorem SameArguments.cleared {c : Byte} {s s' : State} (ha : SameArguments s s') (h : Issued c s) (h' : Issued c s') :
    Twin (Loaded s) (clearedState c s) (clearedState c s') where
  filled := id
  sub := h.noCall
  sub' := h'.noCall
  op := rfl
  inLen := ha.inLen
  outCap := ha.outCap
  outLen := rfl
  input := ha.input
  output := fun a hlt => absurd hlt (Nat.not_lt_zero a)

/-- Where CLR leads a DECODE (R107). -/
theorem decode_cleared {s : State} (h : Issued 0x02 s) (hok : s.inOk = 1) (hl : s.inLen.toNat ≤ s.maxInLen.val)
    (hpos : s.inLen.toNat ≠ 0) : Reaches s ((clearedState 0x02 s).setPhase 0x1C) := by
  have hclr : afterClr (clearedState 0x02 s) = (clearedState 0x02 s).setPhase 0x1C :=
    (if_neg (by decide : ¬ (0x02 : Byte) = 0x01)).trans (if_neg hpos)
  rw [← hclr]
  exact issued_reaches (i := .decode) rfl h hok hl (movesOn_afterClr _).busy

/-- Two DECODEs of the same bytes that pass the prechecks (R102, R111). -/
theorem endAlike_decode {s s' : State} (h : Issued 0x02 s) (h' : Issued 0x02 s') (ha : SameArguments s s')
    (hok : s.inOk = 1) (hl : s.inLen.toNat ≤ s.maxInLen.val) : EndAlike (Loaded s) s s' := by
  have hok' := ha.inOk.trans hok
  by_cases h0 : s.inLen = 0
  · obtain ⟨t, ht, hst, hout⟩ := decode_empty h hok h0
    obtain ⟨t', ht', hst', hout'⟩ := decode_empty h' hok' (ha.inLen.trans h0)
    exact .inl ⟨t, t', ht, ht', hst'.trans hst.symm, hout'.trans hout.symm, fun a hlt => by
      rw [hout] at hlt
      exact absurd hlt (Nat.not_lt_zero a)⟩
  · have hpos : s.inLen.toNat ≠ 0 := fun hz => h0 (BitVec.eq_of_toNat_eq hz)
    have hreach := decode_cleared h hok hl hpos
    have hreach' := decode_cleared h' hok' (by rw [ha.inLen, ha.maxInLen]; exact hl) (ha.inLen ▸ hpos)
    exact endAlike_of_reaches hreach hreach'
      (endAlike_hpar ⟨(ha.cleared h h').setPhase _ _, unbuiltTwin_clearWork _ _⟩ rfl rfl rfl)

/-- Command issue aborts both commands alike (R100). -/
theorem endAlike_issue {i : Instr} {s s' : State} {e : Raise} (hi : i.opClass = .host) (h : Issued (opcode i) s)
    (h' : Issued (opcode i) s')
    (hs : issue (opcode i) (consume .cmd s) = .next (abort e (opcode i) { consume .cmd s with op := opcode i }))
    (hs' : issue (opcode i) (consume .cmd s') = .next (abort e (opcode i) { consume .cmd s' with op := opcode i })) :
    EndAlike (Loaded s) s s' :=
  endAlike_of_step ((step_of_issued h hi).trans hs) ((step_of_issued h' hi).trans hs') rfl rfl
    (sameResult_abort e _ rfl)

/-- Two commands with the same arguments end alike (R111). -/
theorem endAlike_command {i : Instr} {s s' : State} (hi : i.opClass = .host) (h : Issued (opcode i) s)
    (h' : Issued (opcode i) s') (ha : SameArguments s s') : EndAlike (Loaded s) s s' := by
  have hlen : (consume .cmd s').inLen.toNat = s.inLen.toNat := congrArg BitVec.toNat ha.inLen
  have hmax : (consume .cmd s').maxInLen.val = s.maxInLen.val := congrArg Fin.val ha.maxInLen
  by_cases hok : s.inOk = 0
  · exact endAlike_issue hi h h' (issue_notOk hok) (issue_notOk (ha.inOk.trans hok))
  · obtain hl | hl := Nat.lt_or_ge s.maxInLen.val s.inLen.toNat
    · exact endAlike_issue hi h h' (issue_tooLong hok hl)
        (issue_tooLong (fun hc => hok (ha.inOk.symm.trans hc)) (by rw [hlen, hmax]; exact hl))
    · have hok1 : s.inOk = 1 := by bv_omega
      cases i with
      | encode => exact endAlike_encode h h' ha hok1 hl
      | decode => exact endAlike_decode h h' ha hok1 hl
      | _ => cases hi

end Sys2Proof.Proofs

namespace Sys2Proof.Proofs

open Sys2Proof.Machine Sys2Proof.Safety Sys2Proof.Reference

/-! ### What every completed command reports -/

/-- STATUS says that the command `c` is done (R25). -/
def Reports (c : Byte) (t : State) : Prop := statusDone t.status = 1 ∧ statusLastcmd t.status = c

theorem reports_abort (e : Raise) (x : Byte) (s : State) : Reports s.op (abort e x s) :=
  ⟨statusDone_abort .., statusLastcmd_abort ..⟩

theorem reports_complete (c : BitVec 4) (s : State) : Reports s.op (complete c s) :=
  ⟨statusDone_end .., statusLastcmd_end ..⟩

/-- A step of a running command keeps the command running, with its OP, or reports it (R107, R246). -/
theorem running_step {s t : State} (hsub : s.sub = none) (busy : s.phase ≠ 0x00) (h : step s = .next t) :
    HostSideKept s t ∧ ((t.phase ≠ 0x00 ∧ t.op = s.op) ∨ (t.phase = 0x00 ∧ Reports s.op t)) := by
  obtain ⟨hf, -⟩ | ⟨p, i, hf, hclass, hx⟩ := step_cases h
  · exact absurd (fetch_eq_none hf).2.1 busy
  · obtain ⟨-, hp, -⟩ | ⟨rfl, -, -⟩ := fetch_of_noCall hsub hf
    · exact absurd hp busy
    · have hkept : HostSideKept s t := exec_hostSideKept hx
      refine ⟨hkept, ?_⟩
      by_cases hne : i = .endCmd
      · subst hne
        cases hx
        exact .inr ⟨rfl, reports_complete _ s⟩
      · obtain ⟨u, hu, ht⟩ | ⟨e, u, hu, rfl⟩ := exec_micro_cases hclass hne hx
        · exact .inl ⟨ht.busy, (congrArg State.op ht.only).trans hu.op⟩
        · have hr := reports_abort e (opcode i) u.disownOut
          rw [show u.disownOut.op = s.op from hu.op] at hr
          exact .inr ⟨rfl, hr⟩

/-- A running command that comes to an end reports itself there. -/
theorem running_reports {fuel : Nat} {s t : State} (hsub : s.sub = none) (busy : s.phase ≠ 0x00)
    (h : runToIdle fuel s = .next t) (idle : t.phase = 0x00) : HostSideKept s t ∧ Reports s.op t := by
  induction fuel generalizing s with
  | zero =>
    cases h
    exact absurd idle busy
  | succ fuel ih =>
    rw [runToIdle] at h
    cases hs : step s with
    | fault f => simp only [hs] at h; cases h
    | refused r => simp only [hs] at h; cases h
    | next u =>
      simp only [hs] at h
      obtain ⟨hkept, ⟨hb, hop⟩ | ⟨hidle, hrep⟩⟩ := running_step hsub busy hs
      · rw [if_neg hb] at h
        obtain ⟨hkept', hrep⟩ := ih (hkept.sub.trans hsub) hb h
        exact ⟨hkept.trans hkept', hop ▸ hrep⟩
      · rw [if_pos hidle] at h
        cases h
        exact ⟨hkept, hrep⟩

/-- Every command that completes is done and reported, and the host's side is as it was (R25, R69, R106, R246). -/
theorem completed_reports {i : Instr} {s t : State} (hi : i.opClass = .host) (h : Issued (opcode i) s)
    (ht : CompletesIn s t) : Reports (opcode i) t ∧ SameInputSide s t := by
  obtain ⟨fuel, hf, idle, pos⟩ := ht
  obtain ⟨fuel, rfl⟩ := Nat.exists_eq_succ_of_ne_zero pos.ne'
  rw [runToIdle, step_of_issued h hi] at hf
  obtain ⟨u, hu⟩ := issue_answers (opcode i) (consume .cmd s)
  rw [hu] at hf
  dsimp only at hf
  obtain ⟨e, rfl⟩ | ⟨-, rfl⟩ := issue_cases hu
  · cases hf
    exact ⟨reports_abort e _ _, fun _ => rfl, rfl, rfl, rfl, rfl, rfl, rfl⟩
  · have busy : (0x10 : Byte) ≠ 0x00 := by decide
    rw [if_neg busy] at hf
    obtain ⟨hkept, hrep⟩ := running_reports
      (s := { consume .cmd s with op := opcode i, phase := 0x10 }) h.noCall busy hf idle
    exact ⟨hrep, hkept.sameInputSide⟩

/-- The commands of the host are ENCODE and DECODE (R73, R100). -/
theorem exists_host_of_opcode {c : Byte} (hc : c = 0x01 ∨ c = 0x02) : ∃ i : Instr, i.opClass = .host ∧ c = opcode i :=
  hc.elim (fun h => ⟨.encode, rfl, h⟩) fun h => ⟨.decode, rfl, h⟩

/-- Settles O59: two commands with the same arguments run alike, whatever else their states hold. -/
theorem resultDependsOnArgumentsOnly : Obligations.ResultDependsOnArgumentsOnly := by
  unfold Obligations.ResultDependsOnArgumentsOnly
  intro s s' t c hc h h' hlen hcap hok hmax hin ht
  obtain ⟨i, hi, rfl⟩ := exists_host_of_opcode hc
  obtain ⟨u, u', hu, hu', hr⟩ | ⟨-, hn⟩ := endAlike_command hi h h' ⟨hlen, hcap, hok, hmax, hin⟩
  · obtain rfl := completesIn_unique ht hu
    exact ⟨u', hu', hr.status, hr.outLen, hr.bytes⟩
  · exact absurd ht (hn t)

/-- Settles O55: a command runs like itself, and so, with IN filled, it completes. -/
theorem everyCommandCompletes : Obligations.EveryCommandCompletes := by
  unfold Obligations.EveryCommandCompletes
  intro s c hc h hl
  obtain ⟨i, hi, rfl⟩ := exists_host_of_opcode hc
  obtain ⟨t, -, ht, -⟩ | ⟨hnl, -⟩ := endAlike_command hi h h ⟨rfl, rfl, rfl, rfl, fun _ _ => rfl⟩
  · obtain ⟨⟨hd, hc⟩, hside⟩ := completed_reports hi h ht
    exact ⟨t, ht, hd, hc, hside⟩
  · exact absurd hl hnl

/-! ### Empty inputs and commands without IN_OK -/

/-- Settles O53: both empty runs are known step by step; what they report and leave is that of any command. -/
theorem emptyInputCompletes : Obligations.EmptyInputCompletes := by
  unfold Obligations.EmptyInputCompletes
  rintro s c (rfl | rfl) h hok h0
  · obtain ⟨t, ht, hst, hout⟩ := encode_empty h hok h0
    exact ⟨t, ht, hout, hst.trans (by decide), (completed_reports (i := .encode) rfl h ht).2⟩
  · obtain ⟨t, ht, hst, hout⟩ := decode_empty h hok h0
    exact ⟨t, ht, hout, hst.trans (by decide), (completed_reports (i := .decode) rfl h ht).2⟩

/-- Settles O54: the first precheck of command issue aborts. -/
theorem unpreparedCommandFails : Obligations.UnpreparedCommandFails := by
  unfold Obligations.UnpreparedCommandFails
  rintro s c (rfl | rfl) h h0
  · exact ⟨_, (step_of_issued (i := .encode) h rfl).trans (issue_notOk h0), rfl, rfl, rfl,
      (by decide : abortStatus .ioNotOk 0x01 0x01 = if (0x01 : Byte) = 0x01 then 0x01010113 else 0x02020113)⟩
  · exact ⟨_, (step_of_issued (i := .decode) h rfl).trans (issue_notOk h0), rfl, rfl, rfl,
      (by decide : abortStatus .ioNotOk 0x02 0x02 = if (0x02 : Byte) = 0x01 then 0x01010113 else 0x02020113)⟩

end Sys2Proof.Proofs

namespace Sys2Proof.Proofs

open Sys2Proof.Machine Sys2Proof.Safety Sys2Proof.Reference

/-! ### What a transition leaves -/

/-- A rule that writes the working state alone and a transition of the sequencer leave OUT, the host's side and the
control registers (R53, R69). -/
theorem MovesOn.frame_setWork {s t : State} {w : Work} (h : MovesOn (s.setWork w) t) :
    SameOutput s t ∧ SameInputSide s t ∧ SameControl s t := by
  refine ⟨?_, movesOn_frame (sameOutside_setWork s w) h⟩
  rw [h.only]
  exact sameOutput_refl s

/-- The leaf scan writes no working register but SCAN. -/
theorem leafScan_work (k : Nat) (s : State) : ∃ z, (leafScan k s).work = s.work.setScan z := by
  obtain ⟨z, p, hz, -⟩ := leafScan_cases k s
  exact ⟨z, by rw [hz]; rfl⟩

/-! ### Command issue and CLR -/

/-- An abort of command issue leaves the host's side and OUT (R100, R246). -/
theorem issue_abortedTo (e : Raise) (c : Byte) (s : State) :
    AbortedTo { s with op := c } (abort e c { s with op := c }) e c :=
  abort_abortedTo e c rfl ⟨fun _ => rfl, rfl, rfl, rfl, rfl, rfl, rfl⟩

/-- Settles O13: the laws of command issue, one for each outcome of the prechecks. -/
theorem commandIssue : Obligations.CommandIssue := by
  unfold Obligations.CommandIssue
  intro s i c hi
  have hx : exec i s = issue c s := by
    obtain ⟨rfl, rfl⟩ | ⟨rfl, rfl⟩ := hi
    · rfl
    · rfl
  have hne : s.inOk = 1 → s.inOk ≠ 0 := fun h => by rw [h]; decide
  rw [hx]
  exact ⟨fun h0 => ⟨_, issue_notOk h0, issue_abortedTo _ c s, rfl⟩,
    fun h1 hl => ⟨_, issue_tooLong (hne h1) hl, issue_abortedTo _ c s, rfl⟩, fun h1 hl => issue_starts (hne h1) hl⟩

/-- What the transition after CLR writes of the working state (R107). -/
theorem afterClr_work (s : State) : ∃ i z, (afterClr s).work = (s.work.setIptr i).setScan z := by
  unfold afterClr
  split
  · split
    · exact ⟨0, s.work.scan, rfl⟩
    · obtain ⟨z, hz⟩ := leafScan_work 0 (s.setWork (s.work.setIptr 0))
      exact ⟨0, z, hz⟩
  · split
    · exact ⟨s.work.iptr, s.work.scan, rfl⟩
    · exact ⟨s.work.iptr, s.work.scan, rfl⟩

/-- The leaf scan of a table with no frequency goes to ROOT where the heap is empty (R139). -/
theorem leafScan_empty {s : State} (hf : ∀ b, s.work.freqAt b = 0) (hs : s.work.hsize = 0) (k : Nat) :
    (leafScan k s).phase = 0x16 := by
  rw [leafScan_none (nextSymbol_eq_none.2 fun b _ => hf b), if_neg (by rw [hs]; decide)]
  rfl

theorem freqAt_clearWork (w : Work) (b : Byte) : (clearWork w).freqAt b = 0 :=
  BitVec.eq_of_toNat_eq (freqOf_clearWork w b)

/-- The state CLR's rule leaves (R103). -/
def clrState (s : State) : State := { s.setWork (clearWork s.work) with outLen := 0 }

/-- Settles O14: CLR's rule clears the working state and OUT_LEN, and the transition writes IPTR, SCAN, PHASE and the
END operand alone. -/
theorem clrMakesFresh : Obligations.ClrMakesFresh := by
  unfold Obligations.ClrMakesFresh
  intro s
  obtain ⟨i, z, hw⟩ := afterClr_work (clrState s)
  have hmoves := movesOn_afterClr (clrState s)
  obtain ⟨hin, hctl⟩ := movesOn_frame (s := s) (u := clrState s) (by constructor <;> rfl) hmoves
  have hcode : ∀ b, (afterClr (clrState s)).work.codeAt b = none := fun b =>
    (congrArg (Work.codeAt · b) hw).trans (codeAt_clearWork s.work b)
  refine ⟨afterClr (clrState s), rfl,
    fun b => ⟨(congrArg (Work.freqAt · b) hw).trans (freqAt_clearWork s.work b), ?_, ?_⟩,
    congrArg Work.nnodes hw, congrArg Work.hsize hw, congrArg Work.heap hw, congrArg Work.root hw,
    congrArg Work.acc hw, congrArg Work.held hw, congrArg Work.wbits hw, congrArg Work.rbits hw,
    congrArg State.outLen hmoves.only, (congrArg Work.node hw).trans rfl, (congrArg Work.scount hw).trans rfl,
    (congrArg Work.vbits hw).trans rfl, (congrArg Work.tbits hw).trans rfl, (congrArg Work.pbase hw).trans rfl,
    (congrArg Work.bit hw).trans rfl, (congrArg Work.cursor hw).trans rfl,
    fun a => congrArg (fun t => t.outBuf.read a) hmoves.only, hin, hctl, fun hop hl => ?_, fun hop hl => ?_,
    fun hop hl => ?_, fun hop hl => ?_⟩
  · rw [Work.clen, hcode]
    rfl
  · rw [Work.cbits, hcode]
  · rw [show afterClr (clrState s) = _ from (if_pos hop).trans (if_pos hl)]
    exact ⟨rfl, rfl⟩
  · rw [show afterClr (clrState s) = _ from (if_pos hop).trans (if_neg (hl ▸ Nat.lt_irrefl 0))]
    exact leafScan_empty (freqAt_clearWork s.work) rfl 0
  · have hne : ¬ s.op = 0x01 := by rw [hop]; decide
    rw [show afterClr (clrState s) = _ from (if_neg hne).trans (if_pos hl)]
    exact ⟨rfl, rfl⟩
  · have hne : ¬ s.op = 0x01 := by rw [hop]; decide
    rw [show afterClr (clrState s) = _ from (if_neg hne).trans (if_neg hl.ne')]
    rfl

/-! ### FSCAN and the leaf scan -/

/-- What the transition after FACC writes of the working state (R105, R107). -/
theorem afterFacc_work (s : State) :
    ∃ z, (afterFacc s).work = (s.work.setIptr (s.work.iptr + 1)).setScan z := by
  unfold afterFacc
  dsimp only
  split
  · exact ⟨s.work.scan, rfl⟩
  · exact leafScan_work 0 (s.setWork (s.work.setIptr (s.work.iptr + 1)))

/-- Settles O15: the rule counts the byte, and the transition moves IPTR on and begins the leaf scan behind the last. -/
theorem faccCountsByte : Obligations.FaccCountsByte := by
  unfold Obligations.FaccCountsByte
  intro s b hi hb hf
  have hx := facc_eq hi hb hf
  set w := s.work.setFreq b (BitVec.ofNat 64 (freqOf s.work b + 1)) with hw
  obtain ⟨z, hz⟩ := afterFacc_work (s.setWork w)
  obtain ⟨hout, hin, hctl⟩ := (runsRule_facc.moves (s.setWork w)).frame_setWork
  refine ⟨afterFacc (s.setWork w), runsRule_facc.next_of_ok hx, ?_, fun b' hb' => ?_, ?_, ?_, hout, hin, hctl,
    fun hlt => ?_, fun heq => ?_⟩
  · rw [hz]
    exact (freqOf_setFreq s.work b b hf).trans (if_pos rfl)
  · rw [hz]
    exact Work.freqAt_setFreq_ne s.work _ hb'
  · rw [hz]
    exact iptr_add_one hi
  · rw [hz]
    rfl
  · rw [afterFacc_more (s := s.setWork w) hlt]
    exact ⟨rfl, rfl⟩
  · rw [afterFacc_last (s := s.setWork w) heq]
    exact leafScan_scansFrom 0 _

/-- Settles O16: what `nextSymbol` finds decides both clauses. -/
theorem leafScanAscends : Obligations.LeafScanAscends := by
  unfold Obligations.LeafScanAscends
  intro s k
  refine ⟨fun b hk hf hlow => ?_, fun hnone => leafScan_none (nextSymbol_eq_none.2 hnone)⟩
  have hb : b.setWidth 9 = BitVec.ofNat 9 b.toNat := BitVec.eq_of_toNat_eq (by
    rw [BitVec.toNat_setWidth, BitVec.toNat_ofNat])
  rw [leafScan_some (nextSymbol_eq_some.2 ⟨hk, hf, hlow⟩), hb]
  rfl

/-- Nodes are read from the arena alone. -/
theorem nodeAt_congr {w w' : Work} (h : w'.node = w.node) (j : NodeIx) : w'.nodeAt j = w.nodeAt j := by
  unfold Work.nodeAt
  rw [h]

/-- The working state behind LEAF's rule, where arena and heap have room (R136, R137). -/
def leafWork (s : State) (b : Byte) : Work :=
  ((s.work.setNode (nextIx s) (leafNode b (s.work.freqAt b))).setNnodes (s.work.nnodes + 1)).setHeap
    (heapAdd (nextIx s) s.work.heap) (s.work.hsize + 1)

section Leaf
variable {s : State} {b : Byte}

theorem leaf_of_room (hb : s.work.scan.toNat = b.toNat) (hn : s.work.nnodes.toNat < 511)
    (hh : s.work.hsize.toNat < 256) : leaf s = .ok () (s.setWork (leafWork s b)) := by
  rw [leaf, scanSymbol_of_symbol hb, Res.bind_ok]
  exact addNode_of_room hn hh

theorem leafWork_only : leafWork s b = { s.work with
    node := (leafWork s b).node, nnodes := (leafWork s b).nnodes, heap := (leafWork s b).heap,
    hsize := (leafWork s b).hsize } := rfl

theorem leafWork_nodeAt (j : NodeIx) :
    (leafWork s b).nodeAt j = (s.work.setNode (nextIx s) (leafNode b (s.work.freqAt b))).nodeAt j := nodeAt_congr rfl j

theorem leafWork_nnodes (hn : s.work.nnodes.toNat < 511) :
    (leafWork s b).nnodes.toNat = s.work.nnodes.toNat + 1 := by
  change (s.work.nnodes + 1).toNat = _
  bv_omega

theorem leafWork_hsize (hh : s.work.hsize.toNat < 256) : (leafWork s b).hsize.toNat = s.work.hsize.toNat + 1 := by
  change (s.work.hsize + 1).toNat = _
  bv_omega

theorem mem_leafWork_heap {j : NodeIx} : j ∈ (leafWork s b).heap ↔ j ∈ s.work.heap ∨ j = nextIx s := mem_heapAdd

end Leaf

/-- Settles O22: LEAF adds one node to arena and heap, and the leaf scan goes on behind its Symbol. -/
theorem leafCreatesAndInserts : Obligations.LeafCreatesAndInserts := by
  unfold Obligations.LeafCreatesAndInserts
  intro s b hb hn hh
  have hix := nextIx_toNat hn
  have hof : BitVec.ofNat 9 s.work.nnodes.toNat = nextIx s := BitVec.eq_of_toNat_eq (by
    rw [hix, BitVec.toNat_ofNat]
    omega)
  set u := s.setWork (leafWork s b)
  have hafter : afterLeaf u = leafScan (b.toNat + 1) u := congrArg (fun k => leafScan (k + 1) u) hb
  obtain ⟨z, hz⟩ := leafScan_work (b.toNat + 1) u
  obtain ⟨hout, hin, hctl⟩ := (movesOn_leafScan (b.toNat + 1) s (leafWork s b)).frame_setWork
  have hnode : ∀ j, (leafScan (b.toNat + 1) u).work.nodeAt j = _ := fun j =>
    (nodeAt_congr (congrArg Work.node hz) j).trans (leafWork_nodeAt j)
  refine ⟨leafScan (b.toNat + 1) u, hafter ▸ runsRule_leaf.next_of_ok (leaf_of_room hb hn hh), ?_, fun j hj => ?_, ?_,
    fun j => ?_, ?_, ?_, hout, hin, hctl, leafScan_scansFrom _ _⟩
  · rw [hof, hnode]
    exact Work.nodeAt_setNode_same s.work _ (by rw [hix]; exact hn)
  · rw [hnode]
    exact Work.nodeAt_setNode_ne s.work _ (by rintro rfl; exact hj hix)
  · rw [hz]
    exact leafWork_nnodes (b := b) hn
  · rw [hz, ← hix, ← BitVec.toNat_eq]
    exact mem_leafWork_heap (b := b)
  · rw [hz]
    exact leafWork_hsize (b := b) hh
  · rw [hz]
    exact congrArg (Work.setScan · z) leafWork_only

/-! ### HPAR -/

/-- Settles O36: HPAR's registers are those of the header, and the leaf scan begins at Symbol 0. -/
theorem hparLoadsHeader : Obligations.HparLoadsHeader := by
  unfold Obligations.HparLoadsHeader
  intro s n hl hc hn hlen hsum h1 h8 ht
  obtain ⟨w, hx, hwo, hwf⟩ := hpar_loaded hl hc hn hlen hsum h1 h8 ht
  set v := boundsWork w n (inByte s (4 + 9 * n)) (inNat s (5 + 9 * n) 8) with hv
  obtain ⟨z, hz⟩ := leafScan_work 0 (s.setWork v)
  obtain ⟨hout, hin, hctl⟩ := (movesOn_leafScan 0 s v).frame_setWork
  have htb : inNat s (5 + 9 * n) 8 < 2 ^ 64 := inNat_lt s _ 8
  refine ⟨leafScan 0 (s.setWork v), runsRule_hpar.next_of_ok hx, ?_, fun b => ?_, ?_, ?_, ?_, ?_, hout, hin, hctl,
    leafScan_scansFrom 0 _⟩
  · rw [hz, State.setWork_work, hv, hwo]
    change (BitVec.ofNat 32 n).toNat = n
    rw [BitVec.toNat_ofNat]
    omega
  · rw [hz]
    exact hwf b
  · rw [hz]
    rfl
  · rw [hz]
    change (BitVec.ofNat 64 (inNat s (5 + 9 * n) 8)).toNat = _
    rw [BitVec.toNat_ofNat, Nat.mod_eq_of_lt htb]
  · rw [hz]
    change (BitVec.ofNat 64 (13 + 9 * n)).toNat = _
    rw [BitVec.toNat_ofNat]
    omega
  · rw [hz, State.setWork_work, hv, hwo]
    rfl

/-! ### WBEG and WALK1 -/

/-- Settles O39: WBEG's rule asks for a tree, and the transition behind it asks again. -/
theorem wbegBeginsWalk : Obligations.WbegBeginsWalk := by
  unfold Obligations.WbegBeginsWalk
  intro s
  refine ⟨fun hr => ?_, fun hr ht => ?_, fun hr ht => ?_⟩
  · rw [runsRule_wbeg.next_of_ok (wbeg_of_tree hr), afterWbeg_of_tree hr, walkLoop_eq]
    rfl
  · have hw : wbeg s = .ok () s := (if_pos hr).trans (if_pos ht)
    rw [runsRule_wbeg.next_of_ok hw, afterWbeg_of_noTree hr]
    rfl
  · have hw : wbeg s = .raise .malNoTree s := (if_pos hr).trans (if_neg ht)
    exact runsRule_wbeg.aborts hw

/-- A byte appended to OUT, in the words of the statements (R58). -/
theorem appended_byte {s : State} (c : Byte) (hr : s.outLen.toNat < s.outCap.toNat) :
    (s.outBuf.write s.outLen.toNat c).read s.outLen.toNat = some c ∧
    (∀ a, a ≠ s.outLen.toNat → (s.outBuf.write s.outLen.toNat c).read a = s.outBuf.read a) ∧
    (s.outLen + 1).toNat = s.outLen.toNat + 1 :=
  ⟨Memory.read_write_same _ _ _, fun _ ha => Memory.read_write_ne _ _ ha, outLen_succ hr⟩

/-- Settles O40: below an Internal root WALK1 takes one edge, to an Internal node or over a Leaf back to ROOT. -/
theorem walk1MovesCursor : Obligations.Walk1MovesCursor := by
  unfold Obligations.Walk1MovesCursor
  intro s top here nd child htop ht hhere hchild hnd
  obtain rfl : child = here.child s.work.bit := hchild
  have hedge : walk1 s = walkEdge s := by
    simp only [walk1, getNode, htop, Res.bind_ok, ht]
  refine ⟨fun hi => ?_, fun hleaf hr => ?_, fun hleaf hfull => ?_⟩
  · rw [runsRule_walk1.next_of_ok (hedge.trans (walkEdge_internal hhere hnd hi)), afterWalk1, walkLoop_eq]
    rfl
  · obtain ⟨hnew, hold, hlen⟩ := appended_byte nd.sym hr
    refine ⟨_, runsRule_walk1.next_of_ok (hedge.trans (walkEdge_leaf hhere hnd hleaf hr)), ?_⟩
    rw [afterWalk1, walkLoop_eq]
    exact ⟨hnew, hold, hlen, rfl⟩
  · set v := s.setWork (s.work.setCursor (here.child s.work.bit))
    have hraise : walkEdge s = .raise .ioOutFull v := by
      rw [walkEdge_toLeaf hhere hnd hleaf, putOut_full (s := v) hfull, Res.bind_raise]
    exact runsRule_walk1.aborts (hedge.trans hraise)

/-- Settles O41: with a single-leaf tree WALK1 is a PutOut of the root's Symbol. -/
theorem walk1SingleLeafEmits : Obligations.Walk1SingleLeafEmits := by
  unfold Obligations.Walk1SingleLeafEmits
  intro s top htop ht
  have hw := walk1_singleLeaf htop ht
  refine ⟨fun hr => ?_, fun hfull => runsRule_walk1.aborts (hw.trans (putOut_full hfull))⟩
  obtain ⟨hnew, hold, hlen⟩ := appended_byte top.sym hr
  refine ⟨_, runsRule_walk1.next_of_ok (hw.trans (putOut_of_room hr)), ?_⟩
  rw [afterWalk1, walkLoop_eq]
  exact ⟨hnew, hold, hlen, rfl⟩

end Sys2Proof.Proofs

namespace Sys2Proof.Proofs

open Sys2Proof.Machine Sys2Proof.Safety Sys2Proof.Reference

/-! ### HINS and HEXT run alone -/

/-- HINS run alone is its rule with PHASE left as it is (R23, R122). -/
theorem exec_hins (s : State) : exec .hins s = settle s.phase (heapInsert s.hArg s) id := rfl

/-- Settles O18: a heap with room takes the operand in, and a full one raises. -/
theorem hinsAddsToHeap : Obligations.HinsAddsToHeap := by
  unfold Obligations.HinsAddsToHeap
  intro s
  rw [exec_hins]
  refine ⟨fun h => ?_, fun h => ?_⟩
  · rw [heapInsert_of_room h]
    exact ⟨_, rfl, fun _ => mem_heapAdd, (by bv_omega : (s.work.hsize + 1).toNat = s.work.hsize.toNat + 1), rfl⟩
  · rw [heapInsert_full h]
    exact ⟨_, rfl, (SameOutside.refl s).abortedTo .guardHeap s.phase⟩

/-- HEXT run alone hands its result over in the latch hArg (R23, R123). -/
theorem exec_hext (s : State) :
    exec .hext s = settle s.phase ((heapExtract s).bind fun i u => .ok () { u with hArg := i }) id := rfl

/-- HEXT run alone on an empty heap (R123, R246). -/
theorem exec_hext_empty {s : State} (h : s.work.hsize = 0) :
    exec .hext s = .next (abort .emptyHeap s.phase s.disownOut) := by
  rw [exec_hext, heapExtract_empty h, Res.bind_raise, settle_raise]

/-- HEXT run alone on a heap that holds NIL stops (R30, R123). -/
theorem exec_hext_nil {s : State} (h0 : s.work.hsize ≠ 0) (hnil : Config.nil ∈ s.work.heap) :
    exec .hext s = .fault .nilNode := by
  rw [exec_hext, heapExtract_nil h0 hnil, Res.bind_stop, settle_stop]

/-- HEXT run alone on a heap with members, none of them NIL, takes the least key (R123). -/
theorem exec_hext_some {s : State} (h0 : s.work.hsize ≠ 0) (hne : s.work.heap ≠ [])
    (hnil : Config.nil ∉ s.work.heap) :
    ∃ i, leastOf s.work s.work.heap = some i ∧ exec .hext s = .next
      { s with hArg := i, work := s.work.setHeap (s.work.heap.erase i) (s.work.hsize - 1) } := by
  obtain ⟨i, hi, hx⟩ := heapExtract_some h0 hne hnil
  refine ⟨i, hi, ?_⟩
  rw [exec_hext, hx, Res.bind_ok, settle_ok]
  rfl

/-- Settles O20: the abort of EmptyHeapError, whose cause is 5 and whose detail is 0. -/
theorem hextOnEmptyHeapRaises : Obligations.HextOnEmptyHeapRaises := by
  unfold Obligations.HextOnEmptyHeapRaises
  intro s h
  exact ⟨_, exec_hext_empty h, (SameOutside.refl s).abortedTo .emptyHeap s.phase, statusCause_abort ..,
    statusDetail_abort ..⟩

/-- Settles O19: none of the members is NIL, and of a list without repeats `erase` removes the member itself. -/
theorem hextTakesLeastKey : Obligations.HextTakesLeastKey := by
  unfold Obligations.HextTakesLeastKey
  intro s hne h0 hnodup hnode
  have hnil : Config.nil ∉ s.work.heap := fun hm => by
    have hsome := hnode _ hm
    rw [show s.work.nodeAt Config.nil = none from s.work.nodeAt_nil] at hsome
    cases hsome
  obtain ⟨i, hi, hx⟩ := exec_hext_some h0 hne hnil
  obtain ⟨hm, hleast⟩ := leastOf_spec hi
  refine ⟨_, i, hx, rfl, hm, fun j hj hji => Work.keyLt_iff.1 (hleast j hj hji), fun j => ?_, ?_, rfl⟩
  · exact hnodup.mem_erase_iff.trans and_comm
  · change (s.work.hsize - 1).toNat + 1 = _
    bv_omega

/-- The key order on two indices depends on their weights alone (R121). -/
theorem keyLt_congr {w w' : Work} {i j : NodeIx} (hi : w.weightAt i = w'.weightAt i)
    (hj : w.weightAt j = w'.weightAt j) : w.keyLt i j = w'.keyLt i j := by
  unfold Work.keyLt
  rw [hi, hj]

/-- The least member is that of the set and its weights, however the members are listed (R124). -/
theorem leastOf_congr {w w' : Work} {l l' : List NodeIx} {i i' : NodeIx} (hset : ∀ j, j ∈ l ↔ j ∈ l')
    (hweight : ∀ j ∈ l, w.weightAt j = w'.weightAt j) (hi : leastOf w l = some i) (hi' : leastOf w' l' = some i') :
    i = i' := by
  obtain ⟨hm', hleast⟩ := leastOf_spec hi'
  have hm := (hset i').2 hm'
  refine leastOf_unique hi hm fun k hk hne => ?_
  rw [keyLt_congr (hweight i' hm) (hweight k hk)]
  exact hleast k ((hset k).1 hk) hne

/-- Settles O21: where HEXT answers a next state no member is NIL, and both results are the least member of one set. -/
theorem hextIgnoresHeapOrder : Obligations.HextIgnoresHeapOrder := by
  unfold Obligations.HextIgnoresHeapOrder
  intro s s' t t' hset hweight hne h0 h0' ht ht'
  have hnil : Config.nil ∉ s.work.heap := fun hm => by
    rw [exec_hext_nil h0 hm] at ht
    cases ht
  have hne' : s'.work.heap ≠ [] := fun he => hne (List.eq_nil_iff_forall_not_mem.2 fun j hj => by
    have := (hset j).1 hj
    rw [he] at this
    cases this)
  obtain ⟨i, hi, hx⟩ := exec_hext_some h0 hne hnil
  obtain ⟨i', hi', hx'⟩ := exec_hext_some h0' hne' fun hm => hnil ((hset _).2 hm)
  rw [hx] at ht
  rw [hx'] at ht'
  cases ht
  cases ht'
  exact leastOf_congr hset hweight hi hi'

/-! ### The guards of LEAF and MERGE -/

theorem runsRule_merge : RunsRule .merge merge afterMerge := ⟨fun _ => rfl, framed_merge, movesOn_mergeOrRoot⟩

/-- LEAF with SCAN a Symbol creates the Leaf of that Symbol (R136). -/
theorem leaf_eq_addNode {s : State} (h : s.work.scan.toNat < 256) : ∃ nd, nd.tag = .leaf ∧ leaf s = addNode nd s := by
  refine ⟨leafNode (s.work.scan.setWidth 8) (s.work.freqAt (s.work.scan.setWidth 8)), rfl, ?_⟩
  rw [leaf, scanSymbol, if_pos h, Res.bind_ok]

/-- Settles O23: creating a node looks at the arena first and then at the heap. -/
theorem leafGuards : Obligations.LeafGuards := by
  unfold Obligations.LeafGuards
  intro s hscan
  obtain ⟨nd, -, hx⟩ := leaf_eq_addNode hscan
  exact ⟨fun hn => runsRule_leaf.aborts (hx.trans (addNode_arena hn)),
    fun hn hh => runsRule_leaf.aborts (hx.trans (addNode_heap hn hh))⟩

/-- Settles O25: the first or the second HEXT finds the heap empty. -/
theorem mergeOnShortHeapRaises : Obligations.MergeOnShortHeapRaises := by
  unfold Obligations.MergeOnShortHeapRaises
  intro s h hn h2
  by_cases h0 : s.work.hsize = 0
  · exact runsRule_merge.aborts (u := s) (by rw [merge, heapExtract_empty h0, Res.bind_raise])
  · have h1 : s.work.hsize.toNat = 1 := by bv_omega
    obtain ⟨i, hx, -, -, hs, -⟩ := heapExtract_ok h hn h1.ge
    have hempty : s.work.hsize - 1 = 0 := BitVec.eq_of_toNat_eq (hs.trans (by rw [h1]; rfl))
    refine runsRule_merge.aborts (u := s.setWork (s.work.setHeap (s.work.heap.erase i) (s.work.hsize - 1))) ?_
    rw [merge, hx, Res.bind_ok, heapExtract_empty hempty, Res.bind_raise]

end Sys2Proof.Proofs

namespace Sys2Proof.Proofs

open Sys2Proof.Machine Sys2Proof.Safety Sys2Proof.Reference

/-! ### Counting the Internal nodes of the arena -/

/-- NODE[i] is an Internal node (R30). -/
def isInternal (w : Work) (i : Nat) : Bool := (w.node[i]?).any fun nd => decide (nd.tag = .internal)

/-- The number of Internal nodes with an index below `n`. -/
def internalsBelow (w : Work) (n : Nat) : Nat := (List.range n).countP (isInternal w)

theorem internalCount_eq (w : Work) : internalCount w = internalsBelow w w.nnodes.toNat := by
  rw [internalsBelow, List.countP_eq_length_filter]
  refine congrArg (fun p => ((List.range w.nnodes.toNat).filter p).length) (funext fun i => ?_)
  unfold isInternal
  cases w.node[i]? <;> rfl

theorem internalsBelow_succ (w : Work) (n : Nat) :
    internalsBelow w (n + 1) = internalsBelow w n + if isInternal w n then 1 else 0 := by
  simp [internalsBelow, List.range_succ, List.countP_append, List.countP_singleton]

theorem internalsBelow_mono (w : Work) {m n : Nat} (h : m ≤ n) : internalsBelow w m ≤ internalsBelow w n :=
  (List.range_sublist.2 h).countP_le

/-- The count depends on the nodes it looks at alone. -/
theorem internalsBelow_congr {w w' : Work} {n : Nat} (h : ∀ i < n, w'.node[i]? = w.node[i]?) :
    internalsBelow w' n = internalsBelow w n :=
  List.countP_congr fun i hi => by unfold isInternal; rw [h i (List.mem_range.1 hi)]

theorem isInternal_of_nodeAt {w : Work} {i : NodeIx} {nd : Node} (h : w.nodeAt i = some nd) :
    isInternal w i.toNat = decide (nd.tag = .internal) := by
  unfold Work.nodeAt at h
  rw [isInternal, h, Option.any_some]

/-- The same nodes in use, the same number of Internal nodes. -/
theorem internalCount_congr {w w' : Work} (hn : w'.nnodes = w.nnodes) (h : w'.node = w.node) :
    internalCount w' = internalCount w := by
  rw [internalCount_eq, internalCount_eq, hn]
  exact internalsBelow_congr fun i _ => by rw [h]

/-- With no node in use none is Internal. -/
theorem internalCount_of_empty {w : Work} (h : w.nnodes.toNat = 0) : internalCount w = 0 := by
  rw [internalCount_eq, h]
  rfl

/-! ### One more node -/

/-- `w'` is `w` with one more node, counted by `k` where it is Internal, and HSIZE raised by one (R122, R137). -/
structure NodeAdded (k : Nat) (w w' : Work) : Prop where
  nnodes : w'.nnodes.toNat = w.nnodes.toNat + 1
  hsize : w'.hsize.toNat = w.hsize.toNat + 1
  internals : internalCount w' = internalCount w + k
  scan : w'.scan = w.scan

/-- Creating a node where arena and heap have room (R136, R137, R141). -/
theorem addNode_nodeAdded {s : State} (nd : Node) (hn : s.work.nnodes.toNat < 511) (hh : s.work.hsize.toNat < 256) :
    ∃ u, addNode nd s = .ok () u ∧ NodeAdded (if nd.tag = .internal then 1 else 0) s.work u.work := by
  have hix := nextIx_toNat hn
  have hnn : (s.work.nnodes + 1).toNat = s.work.nnodes.toNat + 1 := by bv_omega
  refine ⟨_, addNode_of_room hn hh, hnn, (by bv_omega : (s.work.hsize + 1).toNat = _), ?_, rfl⟩
  set w := (s.work.setNode (nextIx s) nd).setNnodes (s.work.nnodes + 1) with hw
  have hold : ∀ i < s.work.nnodes.toNat, w.node[i]? = s.work.node[i]? := fun i hi => by
    have hne : (nextIx s).toNat ≠ i := by omega
    simp [hw, Work.setNode, hne]
  have hnew : isInternal w s.work.nnodes.toNat = decide (nd.tag = .internal) := by
    rw [← hix]
    exact isInternal_of_nodeAt (Work.nodeAt_setNode_same s.work nd (by omega))
  calc internalCount (w.setHeap _ _)
    _ = internalCount w := internalCount_congr rfl rfl
    _ = internalsBelow w (s.work.nnodes.toNat + 1) := (internalCount_eq w).trans (congrArg (internalsBelow w) hnn)
    _ = internalCount s.work + if nd.tag = .internal then 1 else 0 := by
      rw [internalsBelow_succ, internalsBelow_congr hold, hnew, internalCount_eq]
      simp only [decide_eq_true_eq]

/-- LEAF where arena and heap have room adds a Leaf (R136). -/
theorem leaf_nodeAdded {s : State} (hs : s.work.scan.toNat < 256) (hn : s.work.nnodes.toNat < 511)
    (hh : s.work.hsize.toNat < 256) : ∃ u, leaf s = .ok () u ∧ NodeAdded 0 s.work u.work := by
  obtain ⟨nd, ht, hx⟩ := leaf_eq_addNode hs
  obtain ⟨u, hu, hadd⟩ := addNode_nodeAdded nd hn hh
  rw [ht] at hadd
  exact ⟨u, hx.trans hu, hadd⟩

/-- MERGE where two members are there and the arena has room: one node more, an Internal one, and one member less
(R141). -/
theorem merge_counts {s : State} (h : HeapOk s.work) (hn : s.work.nnodes.toNat < 511)
    (h2 : 2 ≤ s.work.hsize.toNat) : ∃ u, merge s = .ok () u ∧ u.work.nnodes.toNat = s.work.nnodes.toNat + 1 ∧
      u.work.hsize.toNat + 1 = s.work.hsize.toNat ∧ internalCount u.work = internalCount s.work + 1 := by
  have hcap := h.2.2.1
  obtain ⟨a, ha, -, -, hs1, hok1⟩ := heapExtract_ok h hn.le (Nat.le_of_succ_le h2)
  set s1 := s.setWork (s.work.setHeap (s.work.heap.erase a) (s.work.hsize - 1)) with hw1
  have hsz1 : s1.work.hsize.toNat = s.work.hsize.toNat - 1 := hs1
  obtain ⟨b, hb, -, -, hs2, -⟩ := heapExtract_ok (s := s1) hok1 hn.le (by omega)
  set s2 := s1.setWork (s1.work.setHeap (s1.work.heap.erase b) (s1.work.hsize - 1)) with hw2
  have hsz2 : s2.work.hsize.toNat = s1.work.hsize.toNat - 1 := hs2
  obtain ⟨v, s3, h3⟩ := completes_store .nodeWeight 64 (s2.work.weightAt a + s2.work.weightAt b) s2
  have hw3 : s3.work = s2.work := by
    obtain rfl | rfl := store_state h3
    · rfl
    · rfl
  obtain ⟨u, hu, hadd⟩ := addNode_nodeAdded (s := s3) (internalNode v a b) (by rw [hw3]; exact hn)
    (by rw [hw3]; omega)
  rw [hw3] at hadd
  refine ⟨u, by rw [merge, ha, Res.bind_ok, hb, Res.bind_ok, h3, Res.bind_ok, hu], hadd.nnodes, ?_, ?_⟩
  · have := hadd.hsize
    omega
  · exact hadd.internals

/-! ### The counts of BUILD along its transitions -/

/-- What the bounds of BUILD ask of a working state in which PHASE is to become `p`. For a known `p` the fields about
other phases are settled by computation. -/
structure EntersBuild (p : Byte) (w : Work) : Prop where
  leafScan : p = 0x12 → w.nnodes.toNat = w.hsize.toNat ∧ w.hsize.toNat ≤ w.scan.toNat ∧ internalCount w = 0 := by
    intro h; exact absurd h (by decide)
  merging : p = 0x15 →
      w.nnodes.toNat + w.hsize.toNat ≤ 512 ∧ w.nnodes.toNat = w.hsize.toNat + 2 * internalCount w := by
    intro h; exact absurd h (by decide)
  merged : p = 0x16 → w.hsize.toNat = 0 ∨ internalCount w ≤ 255 := by intro h; exact absurd h (by decide)
  tree : p = 0x17 → internalCount w ≤ 255 := by intro h; exact absurd h (by decide)
  fresh : p = 0x11 ∨ p = 0x1C → w.nnodes.toNat = 0 ∧ w.hsize.toNat = 0 := by intro h; exact absurd h (by decide)

theorem EntersBuild.bounds {s : State} {p : Byte} (h : EntersBuild p s.work) : BuildBounds (s.setPhase p) :=
  ⟨h.leafScan, h.merging, h.merged, h.tree, h.fresh⟩

/-- Outside FACC, HPAR, BUILD and CGEN there is nothing to bound. -/
theorem buildBounds_of_phase {s : State} (h : s.phase ∉ [0x11, 0x12, 0x15, 0x16, 0x17, 0x1C]) : BuildBounds s := by
  have hne : ∀ p ∈ [0x11, 0x12, 0x15, 0x16, 0x17, 0x1C], s.phase ≠ p := by
    rintro p hp rfl
    exact h hp
  exact ⟨fun hp => absurd hp (hne _ (by decide)), fun hp => absurd hp (hne _ (by decide)),
    fun hp => absurd hp (hne _ (by decide)), fun hp => absurd hp (hne _ (by decide)),
    fun hp => (hp.elim (hne _ (by decide)) (hne _ (by decide))).elim⟩

/-- `while HSIZE > 1: MERGE`, then ROOT: a heap of one member below at most 511 nodes leaves at most 255 Internal ones
(R140, R148). -/
theorem buildBounds_mergeOrRoot {s : State} (hsum : s.work.nnodes.toNat + s.work.hsize.toNat ≤ 512)
    (hcount : s.work.nnodes.toNat = s.work.hsize.toNat + 2 * internalCount s.work) : BuildBounds (mergeOrRoot s) := by
  unfold mergeOrRoot
  split
  · exact EntersBuild.bounds { merging := fun _ => ⟨hsum, hcount⟩ }
  · exact EntersBuild.bounds { merged := fun _ => by omega }

/-- The leaf scan from Symbol `k` on, with a Leaf for at most every Symbol below `k` (R125, R139). -/
theorem buildBounds_leafScan {k : Nat} {s : State} (hk : k ≤ 256) (hn : s.work.nnodes.toNat = s.work.hsize.toNat)
    (hh : s.work.hsize.toNat ≤ k) (hi : internalCount s.work = 0) : BuildBounds (leafScan k s) := by
  have hscan : ∀ z, internalCount (s.work.setScan z) = 0 := fun z => (internalCount_congr rfl rfl).trans hi
  cases hnext : nextSymbol k s.work with
  | some b =>
    have hkb := (nextSymbol_eq_some.1 hnext).1
    have hb : (b.setWidth 9).toNat = b.toNat := by
      have := b.isLt
      rw [BitVec.toNat_setWidth]
      omega
    rw [leafScan_some hnext]
    exact EntersBuild.bounds { leafScan := fun _ => ⟨hn, (hh.trans hkb).trans hb.ge, hscan _⟩ }
  | none =>
    rw [(leafScan_none hnext).trans (mergeOrRoot_eq (s.setWork _)).symm]
    refine buildBounds_mergeOrRoot ?_ ?_
    · change s.work.nnodes.toNat + s.work.hsize.toNat ≤ 512
      omega
    · rw [State.setWork_work, hscan]
      exact hn

/-- No node is in use and the heap is empty, as CLR leaves them (R103). -/
def NothingBuilt (s : State) : Prop := s.work.nnodes.toNat = 0 ∧ s.work.hsize.toNat = 0

theorem quietStable_nothingBuilt : QuietStable NothingBuilt where
  setWork := fun h hw => by
    unfold NothingBuilt
    rw [State.setWork_work, hw.nnodes, hw.hsize]
    exact h
  countDraw := id

/-- BUILD begins (R138). -/
theorem buildBounds_leafScan_zero {s : State} (h : NothingBuilt s) : BuildBounds (leafScan 0 s) := by
  obtain ⟨hn, hh⟩ := h
  exact buildBounds_leafScan (Nat.zero_le _) (hn.trans hh.symm) hh.le (internalCount_of_empty hn)

theorem buildBounds_afterClr {s : State} (h : NothingBuilt s) : BuildBounds (afterClr s) := by
  unfold afterClr
  split
  · split
    · exact EntersBuild.bounds { fresh := fun _ => h }
    · exact buildBounds_leafScan_zero (s := setIptr 0 s) h
  · split
    · exact buildBounds_of_phase (by rw [gotoEnd_phase]; decide)
    · exact EntersBuild.bounds { fresh := fun _ => h }

theorem buildBounds_afterFacc {s : State} (h : NothingBuilt s) : BuildBounds (afterFacc s) := by
  unfold afterFacc
  dsimp only
  split
  · exact EntersBuild.bounds { fresh := fun _ => h }
  · exact buildBounds_leafScan_zero (s := setIptr (s.work.iptr + 1) s) h

/-- CGEN runs only where ROOT found a tree (R107, R142). -/
theorem buildBounds_afterRoot {s : State} (h : s.work.root = Config.nil ∨ internalCount s.work ≤ 255) :
    BuildBounds (afterRoot s) := by
  unfold afterRoot
  split
  · split
    · exact buildBounds_of_phase (by rw [gotoEnd_phase]; decide)
    · next hne => exact EntersBuild.bounds { tree := fun _ => h.resolve_left hne }
  · exact buildBounds_of_phase (by rw [State.setPhase_phase]; decide)

/-- Behind CGEN a command never comes back to BUILD (R101, R102). -/
theorem buildBounds_walkLoop (s : State) : BuildBounds (walkLoop s) := by
  refine buildBounds_of_phase ?_
  rw [walkLoop_eq, State.setPhase_phase]
  split <;> decide

theorem buildBounds_afterWbeg (s : State) : BuildBounds (afterWbeg s) := by
  unfold afterWbeg
  split
  · exact buildBounds_of_phase (by rw [gotoEnd_phase]; decide)
  · exact buildBounds_walkLoop s

theorem buildBounds_afterHser (s : State) : BuildBounds (afterHser s) := by
  unfold afterHser
  split <;> exact buildBounds_of_phase (by rw [State.setPhase_phase]; decide)

theorem buildBounds_afterPushc (s : State) : BuildBounds (afterPushc s) := by
  unfold afterPushc
  dsimp only
  split <;> exact buildBounds_of_phase (by rw [State.setPhase_phase]; decide)

theorem buildBounds_gotoEnd (c : BitVec 4) (s : State) : BuildBounds (gotoEnd c s) :=
  buildBounds_of_phase (by rw [gotoEnd_phase]; decide)

/-! ### The counts of BUILD along its micro-operations -/

theorem bounds_clr (s : State) : Res.Ends (clr s) fun u => BuildBounds (afterClr u) :=
  ends_ok (buildBounds_afterClr ⟨rfl, rfl⟩)

theorem bounds_facc {s : State} (hb : BuildBounds s) (hp : s.phase = 0x11) :
    Res.Ends (facc s) fun u => BuildBounds (afterFacc u) := fun _ u hu =>
  buildBounds_afterFacc (quietStable_nothingBuilt.facc (hb.fresh (.inl hp)) () u hu)

theorem bounds_hpar {s : State} (hb : BuildBounds s) (hp : s.phase = 0x1C) :
    Res.Ends (hpar s) fun u => BuildBounds (afterHpar u) := fun _ u hu =>
  buildBounds_leafScan_zero (quietStable_nothingBuilt.hpar (hb.fresh (.inr hp)) () u hu)

section BuildRules
variable {s : State} (h : Inv s) (hb : BuildBounds s)
include h hb

/-- In the leaf scan arena and heap have room: there is at most one Leaf for every Symbol behind SCAN (R125, R148). -/
theorem leaf_completes (hp : s.phase = 0x12) : ∃ u, leaf s = .ok () u ∧ NodeAdded 0 s.work u.work := by
  obtain ⟨hn, hh, -⟩ := hb.leafScan hp
  have hscan := h.operands.symbol hp
  exact leaf_nodeAdded hscan (by omega) (by omega)

/-- While two members are left the arena has room (R125, R140, R148). -/
theorem merge_completes (hp : s.phase = 0x15) : ∃ u, merge s = .ok () u ∧
    u.work.nnodes.toNat = s.work.nnodes.toNat + 1 ∧ u.work.hsize.toNat + 1 = s.work.hsize.toNat ∧
    internalCount u.work = internalCount s.work + 1 := by
  have h2 := h.operands.twoEntries hp
  obtain ⟨hsum, -⟩ := hb.merging hp
  exact merge_counts (running_of_phase h hp).heap (by omega) h2

/-- ROOT takes the last node, or there is none (R142). -/
theorem root_completes (hp : s.phase = 0x16) : ∃ u, root s = .ok () u ∧
    (u.work.root = Config.nil ∨ internalCount u.work ≤ 255) := by
  have hr := running_of_phase h hp
  unfold root
  split
  · exact ⟨_, rfl, .inl rfl⟩
  · next h0 =>
    obtain ⟨i, hx, -⟩ := heapExtract_ok hr.heap hr.arena.1 (by bv_omega)
    rw [hx, Res.bind_ok]
    have hi := (hb.merged hp).resolve_left fun hz => h0 (BitVec.eq_of_toNat_eq hz)
    exact ⟨_, rfl, .inr ((internalCount_congr (w := s.work) rfl rfl).le.trans hi)⟩

theorem bounds_leaf (hp : s.phase = 0x12) : Res.Ends (leaf s) fun u => BuildBounds (afterLeaf u) := by
  obtain ⟨u, hu, hadd⟩ := leaf_completes h hb hp
  obtain ⟨hn, hh, hi⟩ := hb.leafScan hp
  have hscan := h.operands.symbol hp
  have hn' := hadd.nnodes
  have hh' := hadd.hsize
  rw [hu]
  refine ends_ok ?_
  rw [afterLeaf, hadd.scan]
  exact buildBounds_leafScan (by omega) (by omega) (by omega) (hadd.internals.trans hi)

theorem bounds_merge (hp : s.phase = 0x15) : Res.Ends (merge s) fun u => BuildBounds (afterMerge u) := by
  obtain ⟨u, hu, hn, hh, hi⟩ := merge_completes h hb hp
  obtain ⟨hsum, hcount⟩ := hb.merging hp
  rw [hu]
  exact ends_ok (buildBounds_mergeOrRoot (by omega) (by omega))

theorem bounds_root (hp : s.phase = 0x16) : Res.Ends (root s) fun u => BuildBounds (afterRoot u) := by
  obtain ⟨u, hu, hroot⟩ := root_completes h hb hp
  rw [hu]
  exact ends_ok (buildBounds_afterRoot hroot)

end BuildRules

/-- A micro-operation keeps the bounds where its rule and its transition do: an abort leaves nothing to bound. -/
theorem bounds_settle {x : Byte} {r : Res Unit} {k : State → State} {t : State}
    (hk : Res.Ends r fun u => BuildBounds (k u)) (ht : settle x r k = .next t) : BuildBounds t := by
  obtain ⟨u, hu, rfl⟩ | ⟨e, u, hu, rfl⟩ := (settle_eq_next _ _).1 ht
  · exact hk () u hu
  · exact buildBounds_of_phase (by rw [abort_phase]; decide)

/-- The micro-operation in PHASE keeps the bounds of BUILD. -/
theorem bounds_exec_micro {i : Instr} {s t : State} (h : Inv s) (hb : BuildBounds s) (hi : i.opClass = .micro)
    (hp : s.phase = opcode i) (ht : exec i s = .next t) : BuildBounds t := by
  cases i with
  | clr => exact bounds_settle (x := 0x10) (bounds_clr s) ht
  | facc => exact bounds_settle (bounds_facc hb hp) ht
  | leaf => exact bounds_settle (bounds_leaf h hb hp) ht
  | merge => exact bounds_settle (bounds_merge h hb hp) ht
  | root => exact bounds_settle (bounds_root h hb hp) ht
  | cgen => exact bounds_settle (fun _ _ _ => buildBounds_of_phase (by decide : (0x18 : Byte) ∉ _)) ht
  | hser => exact bounds_settle (fun _ u _ => buildBounds_afterHser u) ht
  | pushc => exact bounds_settle (fun _ u _ => buildBounds_afterPushc u) ht
  | fin => exact bounds_settle (fun _ u _ => buildBounds_gotoEnd 0 u) ht
  | hpar => exact bounds_settle (bounds_hpar hb hp) ht
  | getb => exact bounds_settle (fun _ _ _ => buildBounds_of_phase (by decide : (0x1E : Byte) ∉ _)) ht
  | walk1 => exact bounds_settle (fun _ u _ => buildBounds_walkLoop u) ht
  | wbeg => exact bounds_settle (fun _ u _ => buildBounds_afterWbeg u) ht
  | wfin => exact bounds_settle (fun _ u _ => buildBounds_gotoEnd 0 u) ht
  | endCmd =>
    cases ht
    exact buildBounds_of_phase (by rw [complete_phase]; decide)
  | encode | decode | hins | hext | push1 => cases hi

/-- Settles O51: a move of the idle host and a command issue leave nothing to bound, and every micro-operation keeps the
bounds. -/
theorem stepKeepsBuildBounds : Obligations.StepKeepsBuildBounds := by
  unfold Obligations.StepKeepsBuildBounds
  intro s t h hb hs
  obtain ⟨hf, hidle⟩ | ⟨p, i, hf, hclass, hx⟩ := step_cases hs
  · have hp : t.phase = 0x00 := (idleStep_keeps hidle).1 (fetch_eq_none hf).2.1
    exact buildBounds_of_phase (by rw [hp]; decide)
  · obtain ⟨rfl, -, -⟩ | ⟨rfl, -, hp⟩ := fetch_of_noCall h.noCall hf
    · rw [exec_host_eq_issue hclass] at hx
      obtain ⟨e, rfl⟩ | ⟨-, rfl⟩ := issue_cases hx
      · exact buildBounds_of_phase (by rw [abort_phase]; decide)
      · exact buildBounds_of_phase (by decide : (0x10 : Byte) ∉ _)
    · exact bounds_exec_micro h hb hclass hp hx

end Sys2Proof.Proofs

namespace Sys2Proof.Proofs

open Sys2Proof.Machine Sys2Proof.Safety Sys2Proof.Reference

/-! ### What a rule can raise -/

/-- Where the result raises, it raises an error with `P`. -/
def Res.Raises {α : Type} (r : Res α) (P : Raise → Prop) : Prop := ∀ e u, r = .raise e u → P e

section Raises
variable {α β : Type} {P Q : Raise → Prop} {r : Res α} {s : State}

theorem raises_ok (a : α) : Res.Raises (.ok a s) P := fun _ _ => nofun

theorem raises_raise {e : Raise} (h : P e) : Res.Raises (.raise e s : Res α) P := by
  intro _ _ he
  cases he
  exact h

theorem raises_stop (f : Fault) : Res.Raises (.stop f : Res α) P := fun _ _ => nofun

theorem raises_mono (h : Res.Raises r P) (hPQ : ∀ e, P e → Q e) : Res.Raises r Q := fun e u he => hPQ e (h e u he)

theorem raises_bind {k : α → State → Res β} (h : Res.Raises r P) (hk : ∀ a u, r = .ok a u → Res.Raises (k a u) P) :
    Res.Raises (r.bind k) P := by
  intro e u he
  obtain hr | ⟨a, v, hr, hv⟩ := (Res.bind_eq_raise e k).1 he
  · exact h e u hr
  · exact hk a v hr e u hv

theorem raises_forEach {body : α → State → Res Unit} (h : ∀ x t, Res.Raises (body x t) P) (xs : List α) (s : State) :
    Res.Raises (forEach xs body s) P := by
  induction xs generalizing s with
  | nil => exact raises_ok ()
  | cons x xs ih => exact raises_bind (h x s) fun _ t _ => ih t

theorem raises_completes (h : Res.Completes r) : Res.Raises r P := by
  obtain ⟨a, t, rfl⟩ := h
  exact raises_ok a

theorem raises_getIn (a : Nat) (s : State) : Res.Raises (getIn a s) P := fun _ _ he => absurd he getIn_ne_raise

theorem raises_memReadIn (n a : Nat) (s : State) : Res.Raises (memReadIn n a s) P := fun _ _ he =>
  absurd he memReadIn_ne_raise

theorem raises_getNode (i : NodeIx) (s : State) : Res.Raises (getNode i s) P := by
  unfold getNode
  split
  · exact raises_ok _
  · exact raises_stop _

end Raises

/-! ### The rules that append raise IOError(3) alone -/

/-- The error of a full OUT (R58). -/
abbrev IsOutFull (e : Raise) : Prop := e = .ioOutFull

theorem raises_putOut (b : Byte) (s : State) : Res.Raises (putOut b s) IsOutFull := by
  obtain ⟨-, he⟩ | ⟨-, he⟩ := putOut_cases b s
  · rw [he]
    exact raises_ok ()
  · rw [he]
    exact raises_raise rfl

theorem raises_putOutN (m v : Nat) (s : State) : Res.Raises (putOutN m v s) IsOutFull := by
  induction m generalizing v s with
  | zero => exact raises_ok ()
  | succ m ih => exact raises_bind (raises_putOut _ s) fun _ t _ => ih _ t

theorem raises_putPair (row : Byte × Word) (s : State) : Res.Raises (putPair row s) IsOutFull := by
  unfold putPair
  split
  · exact raises_ok ()
  · exact raises_bind (raises_putOut _ s) fun _ t _ => raises_putOutN _ _ t

theorem raises_putHeader (s : State) : Res.Raises (putHeader s) IsOutFull :=
  raises_bind (raises_putOutN _ _ s) fun _ t _ => raises_bind (raises_forEach raises_putPair _ t) fun _ u _ =>
    raises_bind (raises_putOut _ u) fun _ v _ => raises_putOutN _ _ v

theorem raises_hser (s : State) : Res.Raises (hser s) IsOutFull := by
  rw [hser_eq_putHeader]
  exact raises_bind (raises_completes (completes_headerRegs s)) fun _ t _ =>
    raises_bind (raises_putHeader t) fun _ _ _ => raises_ok ()

theorem raises_emitFull (s : State) : Res.Raises (emitFull s) IsOutFull := by
  unfold emitFull
  split
  · exact raises_bind (raises_putOut _ s) fun _ _ _ => raises_ok ()
  · exact raises_ok ()

theorem raises_pushBit (b : Bit) (s : State) : Res.Raises (pushBit b s) IsOutFull :=
  raises_bind (raises_completes (completes_store _ _ _ s)) fun _ t _ =>
    raises_bind (raises_completes (completes_store _ _ _ t)) fun _ _ _ => raises_emitFull _

theorem raises_pushc (s : State) : Res.Raises (pushc s) IsOutFull :=
  raises_bind (raises_getIn _ s) fun _ t _ => raises_forEach raises_pushBit _ t

theorem raises_walkEdge (s : State) : Res.Raises (walkEdge s) IsOutFull := by
  refine raises_bind (raises_getNode _ s) fun here t _ => ?_
  refine raises_bind (raises_ok ()) fun _ u _ => raises_bind (raises_getNode _ u) fun nd v _ => ?_
  cases nd.tag with
  | leaf => exact raises_bind (raises_putOut _ v) fun _ _ _ => raises_ok ()
  | internal => exact raises_ok ()

theorem raises_walk1 (s : State) : Res.Raises (walk1 s) IsOutFull := by
  refine raises_bind (raises_getNode _ s) fun top t _ => ?_
  cases top.tag with
  | leaf => exact raises_putOut _ t
  | internal => exact raises_walkEdge t

/-! ### The rules of the reader raise no guard -/

/-- The error is none of EmptyHeapError and InternalGuard (R236). -/
abbrev IsMild (e : Raise) : Prop := e.cause.toNat ≤ 4

theorem isMild_of_outFull (e : Raise) (h : IsOutFull e) : IsMild e := by
  subst h
  decide

theorem raises_facc {P : Raise → Prop} (s : State) : Res.Raises (facc s) P :=
  raises_bind (raises_getIn _ s) fun _ t _ =>
    raises_bind (raises_completes (completes_store _ _ _ t)) fun _ _ _ => raises_ok ()

theorem raises_getb {P : Raise → Prop} (s : State) : Res.Raises (getb s) P :=
  raises_bind (raises_getIn _ s) fun _ t _ =>
    raises_bind (raises_completes (completes_store _ _ _ t)) fun _ _ _ => raises_ok ()

theorem raises_getPair {P : Raise → Prop} (k : Nat) (s : State) : Res.Raises (getPair k s) P :=
  raises_bind (raises_getIn _ s) fun _ t _ => raises_bind (raises_memReadIn _ _ t) fun _ _ _ => raises_ok ()

theorem raises_parseBits (n : Nat) (s : State) : Res.Raises (parseBits n s) IsMild := by
  refine raises_bind (raises_getIn _ s) fun vbits t _ => ?_
  rw [putWork_eq, Res.bind_ok]
  split
  · exact raises_raise (by decide)
  · refine raises_bind (raises_memReadIn _ _ _) fun tbits u _ => ?_
    rw [putWork_eq, Res.bind_ok]
    split
    · exact raises_raise (by decide)
    · exact raises_ok ()

theorem raises_parsePairs (n : Nat) (s : State) : Res.Raises (parsePairs n s) IsMild := by
  unfold parsePairs
  split
  · exact raises_raise (by decide)
  · refine raises_bind (raises_forEach raises_getPair _ s) fun _ t _ => ?_
    split
    · exact raises_raise (by decide)
    · exact raises_parseBits n t

theorem raises_hpar (s : State) : Res.Raises (hpar s) IsMild := by
  unfold hpar
  split
  · exact raises_raise (by decide)
  · refine raises_bind (raises_memReadIn _ _ s) fun v t _ => ?_
    rw [putWork_eq, Res.bind_ok]
    split
    · exact raises_raise (by decide)
    · exact raises_parsePairs _ _

theorem raises_wbeg (s : State) : Res.Raises (wbeg s) IsMild := by
  unfold wbeg
  split
  · split
    · exact raises_ok ()
    · exact raises_raise (by decide)
  · exact raises_ok ()

theorem raises_wfin (s : State) : Res.Raises (wfin s) IsMild := by
  unfold wfin
  split
  · exact raises_ok ()
  · exact raises_raise (by decide)

/-! ### The code-length guard of CGEN -/

theorem SameTree.trans {w w' w'' : Work} (h : SameTree w w') (h' : SameTree w' w'') : SameTree w w'' where
  heap := h'.heap.trans h.heap
  hsize := h'.hsize.trans h.hsize
  nnodes := h'.nnodes.trans h.nnodes
  node := h'.node.trans h.node
  root := h'.root.trans h.root

theorem quietStable_sameTree (w : Work) : QuietStable fun s => SameTree w s.work where
  setWork := fun h hw => h.trans hw
  countDraw := id

/-- A visit raises nothing where the Internal nodes up to its node are no more than the edges left: below an Internal
node all indices are smaller, so each edge uses one of them up (R148, R159). -/
theorem raises_visit {P : Raise → Prop} {room : Nat} {i : NodeIx} {path : BitString} {s : State}
    (h : ArenaOk s.work) (hi : i.toNat < s.work.nnodes.toNat) (hroom : internalsBelow s.work (i.toNat + 1) ≤ room) :
    Res.Raises (visit room i path s) P := by
  induction room generalizing i path s with
  | zero =>
    obtain ⟨nd, hnd, -⟩ := getNode_inUse h hi
    cases ht : nd.tag with
    | leaf =>
      rw [visit_leaf hnd ht]
      exact raises_ok ()
    | internal =>
      rw [internalsBelow_succ, isInternal_of_nodeAt hnd, ht] at hroom
      exact absurd hroom (by simp)
  | succ room ih =>
    obtain ⟨nd, hnd, -⟩ := getNode_inUse h hi
    cases ht : nd.tag with
    | leaf =>
      rw [visit_leaf hnd ht]
      exact raises_ok ()
    | internal =>
      rw [internalsBelow_succ, isInternal_of_nodeAt hnd, ht] at hroom
      have hbelow : internalsBelow s.work i.toNat ≤ room := by simpa using hroom
      have hchild : ∀ j : NodeIx, j.toNat < i.toNat → internalsBelow s.work (j.toNat + 1) ≤ room := fun j hj =>
        (internalsBelow_mono s.work hj).trans hbelow
      obtain ⟨hl, hr⟩ := h.2 i nd hi hnd ht
      rw [visit_internal hnd ht]
      refine raises_bind (ih h (hl.trans hi) (hchild _ hl)) fun _ t hvisit => ?_
      have htree : SameTree s.work t.work :=
        (quietStable_sameTree s.work).visit (s := s) (by constructor <;> rfl) () t hvisit
      refine ih (htree.arenaOk h) (by rw [htree.nnodes]; exact hr.trans hi) ?_
      rw [internalsBelow_congr (w := s.work) fun _ _ => by rw [htree.node]]
      exact hchild _ hr

/-- With at most 255 Internal nodes CGEN raises nothing (R159). -/
theorem raises_cgen {P : Raise → Prop} {s : State} (h : ArenaOk s.work) (hroot : RootInUse s.work)
    (hcount : internalCount s.work ≤ 255) : Res.Raises (cgen s) P := by
  refine raises_bind (raises_getNode _ s) fun nd t ht => ?_
  obtain ⟨-, rfl⟩ := getNode_eq_ok.1 ht
  cases nd.tag with
  | leaf => exact raises_ok ()
  | internal =>
    refine raises_visit h hroot ((internalsBelow_mono _ hroot).trans ?_)
    rw [← internalCount_eq]
    exact hcount

/-! ### How a running command ends -/

/-- The causes of END's operands are 0 and 2 (R107, R236). -/
theorem end_cause_le {s : State} (h : Inv s) (hp : s.phase = 0x1F) :
    (statusCause (complete s.endArg s).status).toNat ≤ 2 := by
  rw [complete_status, statusCause_end]
  obtain h0 | ⟨h2, -⟩ := h.endCause hp
  · rw [h0]; decide
  · rw [h2]; decide

/-- A micro-operation other than END ends its command only by an error of its rule (R107, R246). -/
theorem settle_mild {x : Byte} {r : Res Unit} {k : State → State} {t : State} (hr : Res.Raises r IsMild)
    (hk : ∀ u, MovesOn u (k u)) (ht : settle x r k = .next t) (idle : t.phase = 0x00) :
    (statusCause t.status).toNat ≤ 4 := by
  obtain ⟨u, -, rfl⟩ | ⟨e, u, hu, rfl⟩ := (settle_eq_next _ _).1 ht
  · exact absurd idle (hk u).busy
  · rw [abort_status, statusCause_abort]
    exact hr e u hu

/-- Under the invariant and the bounds of BUILD no micro-operation but FIN ends its command with EmptyHeapError or a
guard (R126, R148, R159). -/
theorem exec_micro_mild {i : Instr} {s t : State} (h : Inv s) (hb : BuildBounds s) (hi : i.opClass = .micro)
    (hne : i ≠ .fin) (hp : s.phase = opcode i) (ht : exec i s = .next t) (idle : t.phase = 0x00) :
    (statusCause t.status).toNat ≤ 4 := by
  cases i with
  | clr => exact settle_mild (x := 0x10) (r := clr s) (raises_ok ()) movesOn_afterClr ht idle
  | facc => exact settle_mild (raises_facc s) movesOn_afterFacc ht idle
  | leaf =>
    obtain ⟨u, hu, -⟩ := leaf_completes h hb hp
    exact settle_mild (raises_completes ⟨_, u, hu⟩) runsRule_leaf.moves ht idle
  | merge =>
    obtain ⟨u, hu, -⟩ := merge_completes h hb hp
    exact settle_mild (raises_completes ⟨_, u, hu⟩) runsRule_merge.moves ht idle
  | root =>
    obtain ⟨u, hu, -⟩ := root_completes h hb hp
    exact settle_mild (raises_completes ⟨_, u, hu⟩) movesOn_afterRoot ht idle
  | cgen =>
    exact settle_mild (raises_cgen (running_of_phase h hp).arena (rootInUse_of_phase h hp) (hb.tree hp))
      (fun u => movesOn_setPhase u (by decide)) ht idle
  | hser => exact settle_mild (raises_mono (raises_hser s) isMild_of_outFull) movesOn_afterHser ht idle
  | pushc => exact settle_mild (raises_mono (raises_pushc s) isMild_of_outFull) movesOn_afterPushc ht idle
  | fin => exact absurd rfl hne
  | hpar => exact settle_mild (raises_hpar s) runsRule_hpar.moves ht idle
  | getb => exact settle_mild (raises_getb s) runsRule_getb.moves ht idle
  | walk1 => exact settle_mild (raises_mono (raises_walk1 s) isMild_of_outFull) movesOn_walkLoop ht idle
  | endCmd =>
    cases ht
    exact (end_cause_le h hp).trans (by decide)
  | wbeg => exact settle_mild (raises_wbeg s) movesOn_afterWbeg ht idle
  | wfin => exact settle_mild (raises_wfin s) (movesOn_gotoEnd 0) ht idle
  | encode | decode | hins | hext | push1 => cases hi

/-- Settles O52: the bounds give LEAF, MERGE and ROOT the room and the members they need and CGEN a tree that is not too
deep; the other rules have no such error. -/
theorem heapAndArenaGuardsUnreachable : Obligations.HeapAndArenaGuardsUnreachable := by
  unfold Obligations.HeapAndArenaGuardsUnreachable
  intro s t h hb busy hfin hs idle
  obtain ⟨i, hi, hp⟩ := micro_of_legalPhase h.phaseLegal busy
  rw [step_of_phase h.noCall hp hi] at hs
  exact exec_micro_mild h hb hi (fun he => hfin (by rw [hp, he]; rfl)) hp hs idle

end Sys2Proof.Proofs

namespace Sys2Proof.Proofs

open Sys2Proof.Machine Sys2Proof.Safety Sys2Proof.Reference

/-! ### The cause a run ends with -/

/-- Wherever the command of `s` completes, its cause is at most `n`. -/
def CauseAtMost (n : Nat) (s : State) : Prop := ∀ t, CompletesIn s t → (statusCause t.status).toNat ≤ n

theorem causeAtMost_of_completesIn {n : Nat} {s t : State} (ht : CompletesIn s t)
    (hc : (statusCause t.status).toNat ≤ n) : CauseAtMost n s := fun u hu => by
  rw [completesIn_unique hu ht]
  exact hc

theorem Reaches.causeAtMost {n : Nat} {s u : State} (h : Reaches s u) (hu : CauseAtMost n u) : CauseAtMost n s :=
  fun t ht => hu t (h.completesIn_rest ht)

/-- An abort of the command at once, with the cause of its error (R246). -/
theorem causeAtMost_of_abort {n : Nat} {s u : State} {e : Raise} {x : Byte} (h : step s = .next (abort e x u))
    (he : e.cause.toNat ≤ n) : CauseAtMost n s :=
  causeAtMost_of_completesIn ((Reaches.refl s).completesIn h rfl) (by rw [abort_status, statusCause_abort]; exact he)

/-- END reports its operand (R106). -/
theorem causeAtMost_gotoEnd {n : Nat} {s : State} {c : BitVec 4} (hsub : s.sub = none) (hc : c.toNat ≤ n) :
    CauseAtMost n (gotoEnd c s) :=
  causeAtMost_of_completesIn (completesIn_end hsub) (by rw [complete_status, statusCause_end]; exact hc)

/-- The micro-operation in PHASE: it raises an error of a bounded cause, or the run goes on. -/
theorem RunsRule.causeAtMost {n : Nat} {i : Instr} {rule : State → Res Unit} {next : State → State} {s : State}
    (h : RunsRule i rule next) (hi : i.opClass = .micro) (hsub : s.sub = none) (hp : s.phase = opcode i)
    (hraise : Res.Raises (rule s) fun e => e.cause.toNat ≤ n)
    (hok : ∀ u, rule s = .ok () u → CauseAtMost n (next u)) : CauseAtMost n s := by
  have hstep := (step_of_phase hsub hp hi).trans (h.exec_eq s)
  cases hr : rule s with
  | ok a u => exact (h.reaches hi hsub hp hr).causeAtMost (hok u hr)
  | raise e u =>
    rw [hr, settle_raise] at hstep
    exact causeAtMost_of_abort hstep (hraise e u hr)
  | stop f =>
    rw [hr, settle_stop] at hstep
    exact fun t ht => absurd ht (not_completesIn_of_fault hstep)

/-- A precheck of command issue that fails is IOError, cause 1 (R100). -/
theorem causeAtMost_issued {n : Nat} {s : State} {i : Instr} (hi : i.opClass = .host) (h : Issued (opcode i) s)
    (hn : 1 ≤ n) (hrun : s.inOk = 1 → s.inLen.toNat ≤ s.maxInLen.val → CauseAtMost n s) : CauseAtMost n s := by
  have hs := step_of_issued h hi
  by_cases h0 : s.inOk = 0
  · exact causeAtMost_of_abort (hs.trans (issue_notOk (s := consume .cmd s) h0)) hn
  · obtain hl | hl := Nat.lt_or_ge s.maxInLen.val s.inLen.toNat
    · exact causeAtMost_of_abort (hs.trans (issue_tooLong (s := consume .cmd s) h0 hl)) hn
    · exact hrun (by bv_omega) hl

/-! ### ENCODE ends with cause 0, 1 or 2 -/

theorem cause_of_outFull (e : Raise) (h : IsOutFull e) : e.cause.toNat ≤ 2 := by
  subst h
  decide

/-- FIN with all the payload bits taken in passes its guard (R177, R181). -/
theorem causeAtMost_fin {s : State} {base : Nat} {bits : BitString} (hsub : s.sub = none) (hp : s.phase = 0x1B)
    (hw : WriterHolds s base bits) (hbits : s.work.wbits = s.work.tbits) : CauseAtMost 2 s := by
  refine runsRule_fin.causeAtMost rfl hsub hp ?_ fun u hu =>
    causeAtMost_gotoEnd (((framed_fin s).ok () u hu).sub.trans hsub) (by decide)
  obtain ⟨t, ht, -⟩ | ⟨-, u, hu⟩ := fin_cases hw hbits
  · rw [ht]
    exact raises_ok ()
  · rw [hu]
    exact raises_raise (by decide)

/-- A running ENCODE in PAYLOAD: the writer holds `bits`, the codes of the bytes `rest` are to come, and TBITS is the
number of them all (R180, R193). -/
structure PayloadLeft (code : Byte → BitString) (base : Nat) (bits : BitString) (done rest : List Byte) (s : State) :
    Prop where
  sub : s.sub = none
  phase : s.phase = 0x1A
  input : InputIs s (done ++ rest)
  iptr : s.work.iptr.toNat = done.length
  codes : ∀ b ∈ rest, s.work.codeAt b = some (code b)
  writer : WriterHolds s base bits
  total : s.work.tbits.toNat = bits.length + (payloadOf code rest).length

/-- PUSHC takes the code of its byte out of what is left, and FIN follows the last one (R176, R180). -/
theorem PayloadLeft.next {code : Byte → BitString} {base : Nat} {bits : BitString} {done rest : List Byte} {b : Byte}
    {s u : State} (h : PayloadLeft code base bits done (b :: rest) s) (hu : pushc s = .ok () u) :
    (rest ≠ [] ∧ PayloadLeft code base (bits ++ code b) (done ++ [b]) rest (afterPushc u)) ∨
    (rest = [] ∧ (afterPushc u).phase = 0x1B ∧ WriterHolds (afterPushc u) base (bits ++ code b) ∧
      (afterPushc u).work.wbits = (afterPushc u).work.tbits) := by
  have hlen := h.input.length
  have hi := h.iptr
  have htotal := h.total
  have htb := s.work.tbits.isLt
  rw [List.length_append, List.length_cons] at hlen
  rw [payloadOf, List.flatMap_cons, List.length_append, ← payloadOf] at htotal
  have hx := pushc_eq (by omega) (h.input.next hi) (h.codes b List.mem_cons_self)
  obtain ⟨t, ht, hrun, hit, hwr⟩ | ⟨-, v, hv⟩ := pushBits_cases h.writer (code b) (by omega)
  · obtain rfl : t = u := by
      have := ht.symm.trans (hx.symm.trans hu)
      cases this
      rfl
    have hlt : s.work.iptr.toNat + 1 ≤ s.inLen.toNat := by omega
    have htbits : t.work.tbits = s.work.tbits := by rw [hrun.work]
    have hafter := afterPushc_eq (s := t) (by rw [hit, hrun.inLen]; exact hlt)
    rw [hit, hrun.inLen] at hafter
    rw [hafter]
    by_cases hr : rest = []
    · subst hr
      rw [List.length_nil] at hlen
      rw [if_neg (by omega)]
      refine .inr ⟨rfl, rfl, writerHolds_next hwr _ _, BitVec.eq_of_toNat_eq ?_⟩
      change t.work.wbits.toNat = t.work.tbits.toNat
      rw [hwr.count, htbits, htotal, List.length_append]
      rfl
    · have hpos := List.length_pos_iff.2 hr
      have hin : InputIs s ((done ++ [b]) ++ rest) := by rw [List.append_assoc]; exact h.input
      rw [if_pos (by omega)]
      refine .inl ⟨hr, hrun.sub.trans h.sub, rfl, hin.congr hrun.inLen hrun.inBuf, ?_, fun c hc => ?_,
        writerHolds_next hwr _ _, ?_⟩
      · rw [List.length_append, List.length_singleton, ← hi]
        exact iptr_add_one hlt
      · change t.work.codeAt c = _
        rw [hrun.work]
        exact h.codes c (List.mem_cons_of_mem b hc)
      · change t.work.tbits.toNat = _
        rw [htbits, htotal, List.length_append, Nat.add_assoc]
  · have := hv.symm.trans (hx.symm.trans hu)
    cases this

/-- PAYLOAD and FIN end with OUT full or pass FIN's guard (R180, R181). -/
theorem PayloadLeft.causeAtMost {code : Byte → BitString} {base : Nat} {bits : BitString} {done rest : List Byte}
    {s : State} (h : PayloadLeft code base bits done rest s) (hne : rest ≠ []) : CauseAtMost 2 s := by
  induction rest generalizing s bits done with
  | nil => exact absurd rfl hne
  | cons b rest ih =>
    refine runsRule_pushc.causeAtMost rfl h.sub h.phase (raises_mono (raises_pushc s) cause_of_outFull) fun u hu => ?_
    obtain ⟨hr, hnext⟩ | ⟨-, hp, hw, hbits⟩ := h.next hu
    · exact ih hnext hr
    · have hsub : (afterPushc u).sub = u.sub := (hostSideKept_movesOn (movesOn_afterPushc u)).sub
      exact causeAtMost_fin ((hsub.trans ((framed_pushc s).ok () u hu).sub).trans h.sub) hp hw hbits

/-- HSER begins PAYLOAD with the number of its bits in TBITS (R107, R193). -/
theorem payloadLeft_of_hser {s u : State} {inp : List Byte} {r : NodeIx} {T : HTree} (h : TablesReady s inp T)
    (hT : TreeOf inp r T) (hne : inp ≠ []) (hmax : inp.length ≤ 2 ^ 56) (hu : hser s = .ok () u) :
    ∃ base, PayloadLeft T.codeD base [] [] inp (afterHser u) := by
  have hb := bitSum_eq_payload h.freq h.code
  have hpos := List.length_pos_iff.2 hne
  have hpl := hT.payload_length
  obtain ⟨t, ht, happ⟩ | ⟨-, v, hv⟩ :=
    hser_cases (s := s) (by omega) (by omega) (by rw [h.outLen]; exact Nat.zero_le _)
  · obtain rfl : t.setWork ((headerWork s.work).setScan 256) = u := by
      have := ht.symm.trans hu
      cases this
      rfl
    have hout := happ.sameOutside
    have hlen := h.input.length
    rw [afterHser_eq, State.setWork_inLen, hout.inLen, State.setWork_inLen, if_pos (by omega)]
    refine ⟨t.outLen.toNat, hout.sub.trans h.sub, rfl, h.input.congr hout.inLen hout.inBuf, rfl,
      fun b hb => (h.code b).trans (hT.code hb), ?_, ?_⟩
    · exact ⟨congrArg BitVec.toNat h.wbits, congrArg BitVec.toNat h.held, rfl,
        fun k hk => absurd hk (Nat.not_lt_zero k), congrArg BitVec.toNat h.acc⟩
    · rw [List.length_nil, Nat.zero_add, ← hb]
      exact headerWork_tbits (by omega)
  · have := hv.symm.trans hu
    cases this

/-- ENCODE of a filled legal input (R101). -/
theorem causeAtMost_encode {s : State} (h : Issued 0x01 s) (hload : Loaded s) (hok : s.inOk = 1)
    (hl : s.inLen.toNat ≤ s.maxInLen.val) : CauseAtMost 2 s := by
  by_cases h0 : s.inLen = 0
  · obtain ⟨t, ht, hst, -⟩ := encode_empty h hok h0
    exact causeAtMost_of_completesIn ht (by rw [hst, statusCause_end]; decide)
  · obtain ⟨inp, hin⟩ := exists_input hload
    have hlen := hin.length
    have hne : inp ≠ [] := by
      rintro rfl
      exact h0 (BitVec.eq_of_toNat_eq hlen.symm)
    have hmax : inp.length ≤ 2 ^ 56 := by
      have := s.maxInLen.isLt
      omega
    obtain ⟨r, T, hT⟩ := exists_treeOf hne
    obtain ⟨t, ht, hp, hready, -⟩ := encode_tables h hin hok hl hT hne
    refine ht.causeAtMost (runsRule_hser.causeAtMost rfl hready.sub hp
      (raises_mono (raises_hser t) cause_of_outFull) fun u hu => ?_)
    obtain ⟨base, hleft⟩ := payloadLeft_of_hser hready hT hne hmax hu
    exact hleft.causeAtMost hne

/-! ### DECODE ends with a cause of at most 4 -/

/-- A DECODE that runs under the invariant and the bounds of BUILD: every step keeps both, and DECODE never comes to
FIN (R102, R126, R243). -/
theorem causeAtMost_decoding {s : State} (h : Inv s) (hb : BuildBounds s) (hop : s.op = 0x02) (busy : s.phase ≠ 0x00) :
    CauseAtMost 4 s := by
  rintro t ⟨fuel, hf, idle, -⟩
  induction fuel generalizing s with
  | zero =>
    cases hf
    exact absurd idle busy
  | succ fuel ih =>
    rw [runToIdle] at hf
    cases hs : step s with
    | fault f => simp only [hs] at hf; cases hf
    | refused r => simp only [hs] at hf; cases hf
    | next u =>
      simp only [hs] at hf
      have hfin : s.phase ≠ 0x1B := fun hp => by
        have h1 := h.encodeOnly (by rw [hp]; decide)
        rw [hop] at h1
        exact absurd h1 (by decide)
      obtain ⟨-, ⟨hbusy, hop'⟩ | ⟨hidle, -⟩⟩ := running_step h.noCall busy hs
      · rw [if_neg hbusy] at hf
        exact ih (stepKeepsInvariant s u h hs) (stepKeepsBuildBounds s u h hb hs) (hop'.trans hop) hbusy hf
      · rw [if_pos hidle] at hf
        cases hf
        exact heapAndArenaGuardsUnreachable s t h hb busy hfin hs hidle

/-- A DECODE that starts under the invariant (R100). -/
theorem causeAtMost_decode {s : State} (hinv : Inv s) (h : Issued 0x02 s) (hok : s.inOk = 1)
    (hl : s.inLen.toNat ≤ s.maxInLen.val) : CauseAtMost 4 s := by
  have hne : s.inOk ≠ 0 := by rw [hok]; decide
  have hs : step s = .next { consume .cmd s with op := 0x02, phase := 0x10 } :=
    (step_of_issued (i := .decode) h rfl).trans (issue_starts (s := consume .cmd s) hne hl)
  have busy : (0x10 : Byte) ≠ 0x00 := by decide
  have hb : BuildBounds s := buildBounds_of_phase (by rw [h.idle]; decide)
  exact (Reaches.single hs busy).causeAtMost
    (causeAtMost_decoding (stepKeepsInvariant _ _ hinv hs) (stepKeepsBuildBounds _ _ hinv hb hs) rfl busy)

/-- The buffer that holds the bytes `f 0` to `f (n - 1)`, placed one by one. -/
def bufferOf (f : Nat → Byte) : Nat → Memory
  | 0 => []
  | n + 1 => (bufferOf f n).write n (f n)

theorem bufferOf_wf (f : Nat → Byte) (n : Nat) : (bufferOf f n).wf = true := by
  induction n with
  | zero => rfl
  | succ n ih => exact Memory.wf_write n (f n) ih

theorem read_bufferOf (f : Nat → Byte) {n a : Nat} (h : a < n) : (bufferOf f n).read a = some (f a) := by
  induction n with
  | zero => exact absurd h (Nat.not_lt_zero a)
  | succ n ih =>
    by_cases ha : a = n
    · rw [ha]
      exact Memory.read_write_same _ _ _
    · exact (Memory.read_write_ne _ _ ha).trans (ih (by omega))

/-- The machine right after reset, given the arguments and the input of `s` and the command `c` (R268). -/
def freshlyIssued (c : Byte) (s : State) : State :=
  { State.reset with
    cmd := some c, inLen := s.inLen, outCap := s.outCap, inOk := s.inOk, maxInLen := s.maxInLen,
    inBuf := bufferOf (inByte s) s.inLen.toNat }

theorem inv_freshlyIssued (c : Byte) (s : State) : Inv (freshlyIssued c s) :=
  inv_of_idle rfl rfl (bufferOf_wf _ _) rfl rfl (by decide : statusReservedZero 0 = true)
    (by decide : (statusCause 0).toNat ≤ 6) (fun _ => rfl) (fun _ => rfl)

theorem issued_freshlyIssued (c : Byte) (s : State) : Issued c (freshlyIssued c s) := ⟨rfl, rfl, rfl⟩

theorem read_freshlyIssued {c : Byte} {s : State} (h : Loaded s) {a : Nat} (ha : a < s.inLen.toNat) :
    (freshlyIssued c s).inBuf.read a = s.inBuf.read a := by
  obtain ⟨y, hy⟩ := Option.isSome_iff_exists.1 (h a ha)
  exact (read_bufferOf (inByte s) ha).trans (by rw [inByte, hy, Option.getD_some])

/-- Settles O56: ENCODE comes to FIN with WBITS equal to TBITS, and DECODE ends like the same command issued right after
reset, which runs under the invariant. -/
theorem onlyReachableCauses : Obligations.OnlyReachableCauses := by
  unfold Obligations.OnlyReachableCauses
  rintro s t c (rfl | rfl) h hl ht
  · exact causeAtMost_issued (i := .encode) rfl h (by decide) (causeAtMost_encode h hl) t ht
  · have h' := issued_freshlyIssued 0x02 s
    obtain ⟨t', ht', hst, -⟩ := resultDependsOnArgumentsOnly s (freshlyIssued 0x02 s) t 0x02 (.inr rfl) h h' rfl rfl
      rfl rfl (fun a ha => read_freshlyIssued hl ha) ht
    rw [← hst]
    exact causeAtMost_issued (i := .decode) rfl h' (by decide)
      (causeAtMost_decode (inv_freshlyIssued 0x02 s) h') t' ht'

end Sys2Proof.Proofs

namespace Sys2Proof.Proofs

open Sys2Proof.Machine Sys2Proof.Safety Sys2Proof.Reference

/-! ### MERGE joins the two lightest -/

/-- `a` and `b` are the two members of HEAP with the least keys, `a` before `b` (R121, R141). -/
structure TwoLeast (w : Work) (a b : NodeIx) : Prop where
  first_mem : a ∈ w.heap
  second_mem : b ∈ w.heap
  ne : a ≠ b
  ordered : w.keyLt a b = true
  before_rest : ∀ j ∈ w.heap, j ≠ a → j ≠ b → w.keyLt b j = true

/-- The working state behind two HEXT that took `a` and `b` (R123). -/
def pairTaken (w : Work) (a b : NodeIx) : Work := w.setHeap ((w.heap.erase a).erase b) (w.hsize - 1 - 1)

/-- The parent MERGE makes: its weight is the sum of its children's weights (R141). -/
def parentNode (w : Work) (a b : NodeIx) : Node := internalNode (BitVec.ofNat 64 (w.weightAt a + w.weightAt b)) a b

/-- The working state behind MERGE's rule, where the arena has room (R141). -/
def mergeWork (s : State) (a b : NodeIx) : Work :=
  ((s.work.setNode (nextIx s) (parentNode s.work a b)).setNnodes (s.work.nnodes + 1)).setHeap
    (heapAdd (nextIx s) ((s.work.heap.erase a).erase b)) (s.work.hsize - 1 - 1 + 1)

/-- Two HEXT in a row take the two least members (R123). -/
theorem heapExtract_pair {s : State} (h : HeapOk s.work) (hn : s.work.nnodes.toNat ≤ 511)
    (h2 : 2 ≤ s.work.hsize.toNat) : ∃ a b s1, heapExtract s = .ok a s1 ∧
      heapExtract s1 = .ok b (s.setWork (pairTaken s.work a b)) ∧ TwoLeast s.work a b := by
  obtain ⟨a, ha, ham, haleast, hsize, hok⟩ := heapExtract_ok h hn (by omega)
  set s1 := s.setWork (s.work.setHeap (s.work.heap.erase a) (s.work.hsize - 1))
  have hrest : ∀ j, j ∈ s1.work.heap ↔ j ≠ a ∧ j ∈ s.work.heap := fun _ => (HeapOk.nodup h).mem_erase_iff
  obtain ⟨b, hb, hbm, hbleast, -⟩ := heapExtract_ok (s := s1) hok hn (hsize.ge.trans' (by omega))
  obtain ⟨hba, hbm⟩ := (hrest b).1 hbm
  exact ⟨a, b, s1, ha, hb, ham, hbm, hba.symm, haleast b hbm hba,
    fun j hj hja hjb => hbleast j ((hrest j).2 ⟨hja, hj⟩) hjb⟩

section Merge
variable {s : State} {a b : NodeIx}

/-- MERGE where two members are there, the arena has room and the weights' sum fits (R141). -/
theorem merge_of_pair (h : HeapOk s.work) (h2 : 2 ≤ s.work.hsize.toNat) (hn : s.work.nnodes.toNat < 511)
    (hsum : ∀ i ∈ s.work.heap, ∀ j ∈ s.work.heap, i ≠ j → s.work.weightAt i + s.work.weightAt j < 2 ^ 64) :
    ∃ a b, merge s = .ok () (s.setWork (mergeWork s a b)) ∧ TwoLeast s.work a b := by
  have hcap := h.2.2.1
  obtain ⟨a, b, s1, ha, hb, hleast⟩ := heapExtract_pair h hn.le h2
  refine ⟨a, b, ?_, hleast⟩
  set s2 := s.setWork (pairTaken s.work a b)
  have hfits : s2.work.weightAt a + s2.work.weightAt b < 2 ^ 64 :=
    hsum a hleast.first_mem b hleast.second_mem hleast.ne
  have hroom : s2.work.hsize.toNat < 256 := by
    change (s.work.hsize - 1 - 1).toNat < 256
    bv_omega
  rw [merge, ha, Res.bind_ok, hb, Res.bind_ok, store_fits hfits, Res.bind_ok, addNode_of_room (s := s2) hn hroom]
  rfl

theorem mergeWork_only : mergeWork s a b = { s.work with
    node := (mergeWork s a b).node, nnodes := (mergeWork s a b).nnodes, heap := (mergeWork s a b).heap,
    hsize := (mergeWork s a b).hsize } := rfl

theorem mergeWork_nodeAt (j : NodeIx) :
    (mergeWork s a b).nodeAt j = (s.work.setNode (nextIx s) (parentNode s.work a b)).nodeAt j := nodeAt_congr rfl j

theorem mergeWork_nnodes (hn : s.work.nnodes.toNat < 511) :
    (mergeWork s a b).nnodes.toNat = s.work.nnodes.toNat + 1 := by
  change (s.work.nnodes + 1).toNat = _
  bv_omega

theorem mergeWork_hsize (h2 : 2 ≤ s.work.hsize.toNat) : (mergeWork s a b).hsize.toNat + 1 = s.work.hsize.toNat := by
  change (s.work.hsize - 1 - 1 + 1).toNat + 1 = _
  bv_omega

theorem mem_mergeWork_heap (h : s.work.heap.Nodup) {j : NodeIx} :
    j ∈ (mergeWork s a b).heap ↔ (j ∈ s.work.heap ∧ j ≠ a ∧ j ≠ b) ∨ j = nextIx s := by
  refine mem_heapAdd.trans (or_congr_left ?_)
  rw [(h.erase a).mem_erase_iff, h.mem_erase_iff]
  tauto

/-- The sum of two weights that fits is the parent's weight (R141). -/
theorem parentNode_weight {w : Work} (h : w.weightAt a + w.weightAt b < 2 ^ 64) :
    (parentNode w a b).weight.toNat = w.weightAt a + w.weightAt b :=
  (BitVec.toNat_ofNat ..).trans (Nat.mod_eq_of_lt h)

end Merge

/-- Settles O24: two HEXT give the two least members, and creating their parent adds one node to arena and heap. -/
theorem mergeJoinsTwoLightest : Obligations.MergeJoinsTwoLightest := by
  unfold Obligations.MergeJoinsTwoLightest
  intro s h h2 hn hsum
  have hix := nextIx_toNat hn
  have hof : BitVec.ofNat 9 s.work.nnodes.toNat = nextIx s := BitVec.ofNat_toNat 9 s.work.nnodes
  obtain ⟨a, b, hmerge, ham, hbm, hab, hlt, hrest⟩ := merge_of_pair h h2 hn hsum
  set u := s.setWork (mergeWork s a b)
  have hsize : u.work.hsize.toNat + 1 = s.work.hsize.toNat := mergeWork_hsize h2
  have hmore : 2 < s.work.hsize.toNat ↔ 1 < u.work.hsize.toNat := by omega
  have hafter : afterMerge u = u.setPhase (if 2 < s.work.hsize.toNat then 0x15 else 0x16) := by
    simp only [hmore]
    exact mergeOrRoot_eq u
  have hstep := runsRule_merge.next_of_ok hmerge
  obtain ⟨hout, hin, hctl⟩ := (runsRule_merge.moves u).frame_setWork
  rw [hafter] at hstep hout hin hctl
  refine ⟨_, a, b, parentNode s.work a b, hstep, ham, hbm, hab, hlt, hrest, ?_,
    rfl, rfl, rfl, rfl, parentNode_weight (hsum a ham b hbm hab), fun j hj => ?_, mergeWork_nnodes hn, fun j => ?_,
    hsize, mergeWork_only, hout, hin, hctl, rfl⟩
  · rw [hof]
    exact (mergeWork_nodeAt _).trans (Work.nodeAt_setNode_same s.work _ (by omega))
  · exact (mergeWork_nodeAt j).trans (Work.nodeAt_setNode_ne s.work _ (by rintro rfl; exact hj hix))
  · rw [← hix, ← BitVec.toNat_eq]
    exact mem_mergeWork_heap (HeapOk.nodup h)

/-! ### ROOT takes the last node -/

theorem runsRule_root : RunsRule .root root afterRoot := ⟨fun _ => rfl, framed_root, movesOn_afterRoot⟩

/-- The working state behind ROOT's rule on a heap of at most one member: ROOT is that member, or NIL, and the heap is
empty (R142). -/
def rootWork (w : Work) : Work := (w.setHeap [] 0).setRoot (w.heap.headD Config.nil)

/-- ROOT on a heap of at most one member (R142). -/
theorem root_of_atMostOne {s : State} (h : HeapOk s.work) (hn : s.work.nnodes.toNat ≤ 511)
    (h1 : s.work.hsize.toNat ≤ 1) : root s = .ok () (s.setWork (rootWork s.work)) := by
  have hlen := h.2.1
  by_cases h0 : s.work.hsize = 0
  · have hnone : s.work.heap = [] := List.length_eq_zero_iff.1 (by rw [← hlen, h0]; rfl)
    have hw : s.work.setHeap [] 0 = s.work := by rw [← hnone, ← h0]; rfl
    rw [root, if_pos h0, putWork_eq, rootWork, hw, hnone]
    rfl
  · have hone : s.work.hsize = 1 := by bv_omega
    obtain ⟨r, hr⟩ := List.length_eq_one_iff.1 (hlen.symm.trans (congrArg BitVec.toNat hone))
    obtain ⟨i, hx, hm, -⟩ := heapExtract_ok h hn (by rw [hone]; decide)
    obtain rfl : i = r := List.mem_singleton.1 (hr ▸ hm)
    have hw : s.work.setHeap (s.work.heap.erase i) (s.work.hsize - 1) = s.work.setHeap [] 0 := by
      rw [hr, hone, List.erase_cons_head]
      rfl
    rw [root, if_neg h0, hx, Res.bind_ok, hw, rootWork, hr]
    rfl

/-- The transition after ROOT writes no working register (R107). -/
theorem afterRoot_work (s : State) : (afterRoot s).work = s.work := by
  unfold afterRoot
  split
  · split <;> rfl
  · rfl

/-- Settles O26: the rule leaves the heap empty, and the transition looks at OP and at ROOT. -/
theorem rootTakesLastNode : Obligations.RootTakesLastNode := by
  unfold Obligations.RootTakesLastNode
  intro s h hn h1
  set u := s.setWork (rootWork s.work)
  have hw : (afterRoot u).work = rootWork s.work := afterRoot_work u
  obtain ⟨hout, hin, hctl⟩ := (movesOn_afterRoot u).frame_setWork
  refine ⟨afterRoot u, runsRule_root.next_of_ok (root_of_atMostOne h hn h1), fun he => ?_, fun i hi => ?_, ?_, ?_, ?_,
    hout, hin, hctl, fun hop he => ?_, fun hop hne => ?_, fun hop => ?_⟩
  · rw [hw, rootWork, he]
    rfl
  · rw [hw, rootWork, hi]
    rfl
  · rw [hw]
    rfl
  · rw [hw]
    rfl
  · rw [hw]
    rfl
  · have hnil : u.work.root = Config.nil := congrArg (List.headD · Config.nil) he
    rw [show afterRoot u = _ from (if_pos hop).trans (if_pos hnil)]
    exact ⟨rfl, rfl⟩
  · obtain ⟨i, l, hl⟩ := List.exists_cons_of_ne_nil hne
    have hroot : u.work.root = i := congrArg (List.headD · Config.nil) hl
    have hnil : u.work.root ≠ Config.nil := fun hc => HeapOk.nil_notMem h hn (by
      rw [← hc, hroot, hl]
      exact List.mem_cons_self)
    rw [show afterRoot u = _ from (if_pos hop).trans (if_neg hnil)]
    rfl
  · have hne : ¬ u.op = 0x01 := by
      change ¬ s.op = 0x01
      rw [hop]
      decide
    rw [show afterRoot u = _ from if_neg hne]
    rfl

end Sys2Proof.Proofs

namespace Sys2Proof.Proofs

open Sys2Proof.Machine Sys2Proof.Safety Sys2Proof.Reference

/-! ### The Leaves below a node -/

/-- Paths are followed in the arena alone. -/
theorem follow_congr {w w' : Work} (h : w'.node = w.node) (i : NodeIx) (p : BitString) :
    follow w' i p = follow w i p := by
  induction p generalizing i with
  | nil => rw [follow, follow, nodeAt_congr h]
  | cons e q ih =>
    rw [follow, follow, nodeAt_congr h]
    simp only [ih]

/-- Leaves are read from the arena alone. -/
theorem leafOn_congr {w w' : Work} (h : w'.node = w.node) (i : NodeIx) (p : BitString) :
    leafOn w' i p = leafOn w i p := by
  simp only [leafOn, follow_congr h, nodeAt_congr h]

section Leaves
variable {w : Work} {i : NodeIx} {nd : Node} {p q : BitString} {b c : Byte}

/-- NIL has no Leaf below it (R30). -/
theorem leafOn_nilNode (h : w.nodeAt i = none) : leafOn w i p = none := by
  cases p with
  | nil => simp [leafOn, follow, h]
  | cons e q => simp [leafOn, follow, h]

/-- Below a Leaf there is that Leaf alone, at the empty path (R156). -/
theorem leafOn_leaf (h : w.nodeAt i = some nd) (ht : nd.tag = .leaf) :
    leafOn w i p = some b ↔ p = [] ∧ nd.sym = b := by
  cases p with
  | nil => simp [leafOn, follow_nil h, h, ht]
  | cons e q => simp [leafOn, follow_leaf h ht]

/-- The Leaves below an Internal node are those below its children (R156). -/
theorem leafOn_internal (h : w.nodeAt i = some nd) (ht : nd.tag = .internal) :
    leafOn w i p = some b ↔ ∃ e q, p = e :: q ∧ leafOn w (nd.child e) q = some b := by
  cases p with
  | nil => simp [leafOn, follow_nil h, h, ht]
  | cons e q => simp [leafOn, follow_internal h ht]

/-- No path to a Leaf goes on to another Leaf: the paths to two Leaves part at an Internal node (R160). -/
theorem leafOn_unique_of_isPrefix (hpq : p <+: q) (hp : leafOn w i p = some b) (hq : leafOn w i q = some c) :
    b = c := by
  induction p generalizing i q with
  | nil =>
    cases h : w.nodeAt i with
    | none => simp [leafOn_nilNode h] at hp
    | some nd =>
      cases ht : nd.tag with
      | leaf => exact ((leafOn_leaf h ht).1 hp).2.symm.trans ((leafOn_leaf h ht).1 hq).2
      | internal => simp [leafOn_internal h ht] at hp
  | cons e p ih =>
    cases h : w.nodeAt i with
    | none => simp [leafOn_nilNode h] at hp
    | some nd =>
      cases ht : nd.tag with
      | leaf => simp [leafOn_leaf h ht] at hp
      | internal =>
        obtain ⟨_, _, ⟨⟩, hp'⟩ := (leafOn_internal h ht).1 hp
        obtain ⟨_, _, rfl, hq'⟩ := (leafOn_internal h ht).1 hq
        obtain ⟨rfl, htail⟩ := List.cons_prefix_cons.1 hpq
        exact ih htail hp' hq'

end Leaves

/-! ### What a visit writes -/

/-- From `w` to `w'`, each Symbol with a Leaf below node `i` got a path to such a Leaf, after `pre` and at most `depth`
edges long, and every other Symbol kept its code. -/
def PathsWritten (depth : Nat) (i : NodeIx) (pre : BitString) (w w' : Work) : Prop :=
  ∀ b, (∃ p, leafOn w i p = some b ∧ p.length ≤ depth ∧ w'.codeAt b = some (pre ++ p)) ∨
    ((∀ p, leafOn w i p ≠ some b) ∧ w'.codeAt b = w.codeAt b)

theorem pathsWritten_leaf {depth : Nat} {i : NodeIx} {pre : BitString} {w : Work} {nd : Node}
    (h : w.nodeAt i = some nd) (ht : nd.tag = .leaf) : PathsWritten depth i pre w (w.setCode nd.sym pre) := by
  intro b
  by_cases hb : b = nd.sym
  · exact .inl ⟨[], (leafOn_leaf h ht).2 ⟨rfl, hb.symm⟩, Nat.zero_le _, by simp [hb]⟩
  · exact .inr ⟨fun p hp => hb ((leafOn_leaf h ht).1 hp).2.symm, w.codeAt_setCode_ne pre hb⟩

/-- The visits of both children of an Internal node make the visit of that node (R157). -/
theorem pathsWritten_internal {depth : Nat} {i : NodeIx} {pre : BitString} {w w₁ w₂ : Work} {nd : Node}
    (h : w.nodeAt i = some nd) (ht : nd.tag = .internal) (hn : w₁.node = w.node)
    (hl : PathsWritten depth nd.left (pre ++ [0]) w w₁) (hr : PathsWritten depth nd.right (pre ++ [1]) w₁ w₂) :
    PathsWritten (depth + 1) i pre w w₂ := by
  intro b
  have hr := hr b
  simp only [leafOn_congr hn] at hr
  obtain ⟨p, hp, hlen, hc⟩ | ⟨hnone, hc⟩ := hr
  · exact .inl ⟨1 :: p, (leafOn_internal h ht).2 ⟨1, p, rfl, hp⟩, Nat.succ_le_succ hlen, by simp [hc]⟩
  obtain ⟨p, hp, hlen, hc'⟩ | ⟨hnone', hc'⟩ := hl b
  · exact .inl ⟨0 :: p, (leafOn_internal h ht).2 ⟨0, p, rfl, hp⟩, Nat.succ_le_succ hlen, by simp [hc, hc']⟩
  · refine .inr ⟨fun p hp => ?_, hc.trans hc'⟩
    obtain ⟨e, q, -, hq⟩ := (leafOn_internal h ht).1 hp
    unfold Node.child at hq
    split at hq
    · exact hnone' q hq
    · exact hnone q hq

/-- Everything a visit that completes can have done (R157). -/
theorem visit_eq_ok {room : Nat} {i : NodeIx} {path : BitString} {s t : State} (h : visit room i path s = .ok () t) :
    ∃ nd, s.work.nodeAt i = some nd ∧
      (nd.tag = .leaf ∧ t = s.setWork (s.work.setCode nd.sym path) ∨
       nd.tag = .internal ∧ ∃ less u, room = less + 1 ∧ visit less nd.left (path ++ [0]) s = .ok () u ∧
         visit less nd.right (path ++ [1]) u = .ok () t) := by
  cases hnd : s.work.nodeAt i with
  | none => cases room <;> simp [visit, hnd] at h
  | some nd =>
    refine ⟨nd, rfl, ?_⟩
    cases ht : nd.tag with
    | leaf =>
      rw [visit_leaf hnd ht] at h
      cases h
      exact .inl ⟨rfl, rfl⟩
    | internal =>
      cases room with
      | zero =>
        rw [visit_tooDeep hnd ht] at h
        cases h
      | succ less =>
        rw [visit_internal hnd ht] at h
        obtain ⟨_, u, hu, ht⟩ := (Res.bind_eq_ok _).1 h
        exact .inr ⟨rfl, less, u, rfl, hu, ht⟩

/-- A visit that completes writes paths below its node into CODE, and nothing else (R157). -/
theorem visit_writes {room : Nat} {i : NodeIx} {path : BitString} {s t : State} (h : visit room i path s = .ok () t) :
    ∃ code, t = s.setWork { s.work with code := code } ∧ PathsWritten room i path s.work t.work := by
  induction room generalizing i path s t with
  | zero =>
    obtain ⟨nd, hnd, ⟨ht, rfl⟩ | ⟨-, less, u, h0, -⟩⟩ := visit_eq_ok h
    · exact ⟨_, rfl, pathsWritten_leaf hnd ht⟩
    · cases h0
  | succ room ih =>
    obtain ⟨nd, hnd, ⟨ht, rfl⟩ | ⟨ht, less, u, ⟨⟩, hl, hr⟩⟩ := visit_eq_ok h
    · exact ⟨_, rfl, pathsWritten_leaf hnd ht⟩
    · obtain ⟨code₁, rfl, hl⟩ := ih hl
      obtain ⟨code₂, rfl, hr⟩ := ih hr
      exact ⟨code₂, rfl, pathsWritten_internal (w₁ := { s.work with code := code₁ }) hnd ht rfl hl hr⟩

/-! ### Where a visit completes -/

/-- What `Visitable` says of ROOT, for the node `i` and for paths of fewer than `room` edges to Internal nodes. -/
def VisitableFrom (w : Work) (room : Nat) (i : NodeIx) : Prop :=
  ∀ path j nd, follow w i path = some j → w.nodeAt j = some nd → nd.tag = .internal →
    path.length < room ∧ (w.nodeAt nd.left).isSome = true ∧ (w.nodeAt nd.right).isSome = true

theorem visitable_iff {w : Work} : Visitable w ↔ VisitableFrom w Config.maxClen w.root := Iff.rfl

theorem VisitableFrom.congr {w w' : Work} {room : Nat} {i : NodeIx} (h : VisitableFrom w room i)
    (hn : w'.node = w.node) : VisitableFrom w' room i := by
  simpa only [VisitableFrom, follow_congr hn, nodeAt_congr hn] using h

theorem VisitableFrom.child {w : Work} {room : Nat} {i : NodeIx} {nd : Node} (h : VisitableFrom w (room + 1) i)
    (hnd : w.nodeAt i = some nd) (ht : nd.tag = .internal) (e : Bit) : VisitableFrom w room (nd.child e) := by
  intro path j x hf hx hxt
  obtain ⟨hlen, hkids⟩ := h (e :: path) j x ((follow_internal hnd ht).trans hf) hx hxt
  exact ⟨Nat.lt_of_succ_lt_succ hlen, hkids⟩

/-- A visit completes where no path below its node runs into NIL or is too long (R157). -/
theorem visit_completes {room : Nat} {i : NodeIx} {path : BitString} {s : State} (h : VisitableFrom s.work room i)
    (hi : (s.work.nodeAt i).isSome = true) : ∃ t, visit room i path s = .ok () t := by
  induction room generalizing i path s with
  | zero =>
    obtain ⟨nd, hnd⟩ := Option.isSome_iff_exists.1 hi
    cases ht : nd.tag with
    | leaf => exact ⟨_, visit_leaf hnd ht⟩
    | internal => exact absurd (h [] i nd (follow_nil hnd) hnd ht).1 (Nat.not_lt_zero _)
  | succ room ih =>
    obtain ⟨nd, hnd⟩ := Option.isSome_iff_exists.1 hi
    cases ht : nd.tag with
    | leaf => exact ⟨_, visit_leaf hnd ht⟩
    | internal =>
      obtain ⟨-, hleft, hright⟩ := h [] i nd (follow_nil hnd) hnd ht
      rw [visit_internal hnd ht]
      obtain ⟨u, hu⟩ := ih (i := nd.left) (path := path ++ [0]) (h.child hnd ht 0) hleft
      obtain ⟨code, rfl, -⟩ := visit_writes hu
      rw [hu, Res.bind_ok]
      exact ih (i := nd.right) ((h.child hnd ht 1).congr rfl) hright

/-! ### What CGEN does -/

theorem runsRule_cgen : RunsRule .cgen cgen afterCgen :=
  ⟨fun _ => rfl, framed_cgen, fun s => movesOn_setPhase s (by decide)⟩

/-- A single Leaf takes the one-bit code (R158). -/
theorem cgen_leaf {s : State} {top : Node} (h : s.work.nodeAt s.work.root = some top) (ht : top.tag = .leaf) :
    cgen s = .ok () (s.setWork (s.work.setCode top.sym Config.singleCode)) := by
  rw [cgen, getNode_eq_ok.2 ⟨h, rfl⟩, Res.bind_ok, ht, putWork_eq]

/-- From an Internal root CGEN visits the tree (R157). -/
theorem cgen_internal {s : State} {top : Node} (h : s.work.nodeAt s.work.root = some top) (ht : top.tag = .internal) :
    cgen s = visit Config.maxClen s.work.root [] s := by
  rw [cgen, getNode_eq_ok.2 ⟨h, rfl⟩, Res.bind_ok, ht]

/-- Settles O27: the visit completes and writes a path for each Symbol with a Leaf; where Leaves are distinct, that path
is the one in question. A single Leaf is written by itself. -/
theorem cgenAssignsPaths : Obligations.CgenAssignsPaths := by
  unfold Obligations.CgenAssignsPaths
  intro s top htop hvis hdist
  cases ht : top.tag with
  | leaf =>
    refine ⟨_, runsRule_cgen.next_of_ok (cgen_leaf htop ht), nofun,
      fun _ => s.work.codeAt_setCode_same _ _, fun b hb => s.work.codeAt_setCode_ne _ ?_, rfl⟩
    rintro rfl
    exact hb [] ((leafOn_leaf htop ht).2 ⟨rfl, rfl⟩)
  | internal =>
    obtain ⟨u, hu⟩ := visit_completes (path := []) (visitable_iff.1 hvis) (by rw [htop]; rfl)
    obtain ⟨code, rfl, hw⟩ := visit_writes hu
    refine ⟨_, runsRule_cgen.next_of_ok ((cgen_internal htop ht).trans hu), fun _ b path hb => ?_,
      nofun, fun b hb => ?_, rfl⟩
    · obtain ⟨p, hp, -, hc⟩ | ⟨hnone, -⟩ := hw b
      · rw [hdist path p b hb hp]
        exact hc
      · exact absurd hb (hnone path)
    · obtain ⟨p, hp, -⟩ | ⟨-, hc⟩ := hw b
      · exact absurd hp (hb p)
      · exact hc

/-- On a table with no codes, the visit of a tree leaves only the paths to its Leaves. -/
theorem PathsWritten.eq_path {depth : Nat} {i : NodeIx} {w w' : Work} {b : Byte} {p : BitString}
    (h : PathsWritten depth i [] w w') (h0 : w.codeAt b = none) (hp : w'.codeAt b = some p) :
    leafOn w i p = some b ∧ p.length ≤ depth := by
  obtain ⟨q, hq, hlen, hc⟩ | ⟨-, hc⟩ := h b
  · obtain rfl : q = p := Option.some.inj (hc.symm.trans hp)
    exact ⟨hq, hlen⟩
  · simp [hc, h0] at hp

/-- The only code of an empty table behind one write is the one written. -/
theorem codeAt_setCode_of_empty {w : Work} {b c : Byte} {p q : BitString} (h0 : ∀ b, w.codeAt b = none)
    (hp : (w.setCode c q).codeAt b = some p) : b = c ∧ p = q := by
  by_cases hb : b = c
  · subst hb
    exact ⟨rfl, Option.some.inj (hp.symm.trans (w.codeAt_setCode_same b q))⟩
  · rw [w.codeAt_setCode_ne q hb, h0] at hp
    cases hp

/-- Settles O28: on an empty table the codes are paths to Leaves below an Internal root, or the one code of a single
Leaf. -/
theorem codesPrefixFree : Obligations.CodesPrefixFree := by
  unfold Obligations.CodesPrefixFree
  intro s t h0 hs hphase
  rw [runsRule_cgen.exec_eq] at hs
  obtain ⟨u, hu, rfl⟩ | ⟨e, u, -, rfl⟩ := (settle_eq_next _ _).1 hs
  swap
  · exact absurd hphase (by rw [abort_phase]; decide)
  obtain ⟨top, _, hget, -⟩ := (Res.bind_eq_ok _).1 hu
  obtain ⟨htop, -⟩ := getNode_eq_ok.1 hget
  cases ht : top.tag with
  | leaf =>
    rw [cgen_leaf htop ht] at hu
    cases hu
    refine ⟨fun b p hp => ?_, fun b c p q hne hp hq _ =>
      hne ((codeAt_setCode_of_empty h0 hp).1.trans (codeAt_setCode_of_empty h0 hq).1.symm)⟩
    obtain ⟨-, rfl⟩ := codeAt_setCode_of_empty h0 hp
    decide
  | internal =>
    rw [cgen_internal htop ht] at hu
    obtain ⟨-, -, hw⟩ := visit_writes hu
    refine ⟨fun b p hp => ?_, fun b c p q hne hp hq hpq =>
      hne (leafOn_unique_of_isPrefix hpq (hw.eq_path (h0 b) hp).1 (hw.eq_path (h0 c) hq).1)⟩
    obtain ⟨hleaf, hlen⟩ := hw.eq_path (h0 b) hp
    obtain ⟨e, q, rfl, -⟩ := (leafOn_internal htop ht).1 hleaf
    exact ⟨Nat.succ_pos _, hlen⟩

end Sys2Proof.Proofs

namespace Sys2Proof.Proofs

open Sys2Proof.Machine Sys2Proof.Safety Sys2Proof.Reference

/-! ### PUSH1 run alone -/

/-- PUSH1 run alone is its rule with PHASE left as it is (R23, R173). -/
theorem exec_push1 (s : State) : exec .push1 s = settle s.phase (pushBit s.bArg s) id := rfl

/-- The bit shifted in takes the place the shift leaves empty, so ACC does not wrap once more (R173). -/
theorem shiftedWork_acc_toNat (w : Work) (b : Bit) :
    (shiftedWork w b).acc.toNat = w.acc.toNat * 2 % 256 + b.toNat := by
  rw [shiftedWork, Work.setWbits_acc, Work.setAcc_acc, shiftIn, BitVec.toNat_ofNat]
  omega

theorem shiftedWork_held_toNat {w : Work} (b : Bit) (h : w.held.toNat ≤ 7) :
    (shiftedWork w b).held.toNat = w.held.toNat + 1 := by
  rw [shiftedWork, Work.setWbits_held, Work.setAcc_held, BitVec.toNat_ofNat]
  omega

theorem shiftedWork_wbits_toNat {w : Work} (b : Bit) (h : w.wbits.toNat + 1 < 2 ^ 64) :
    (shiftedWork w b).wbits.toNat = w.wbits.toNat + 1 :=
  (BitVec.toNat_ofNat ..).trans (Nat.mod_eq_of_lt h)

/-- Settles O29: the bit completes a byte where HELD was 7, and that byte is emitted or finds OUT full. -/
theorem push1ShiftsAndEmits : Obligations.Push1ShiftsAndEmits := by
  unfold Obligations.Push1ShiftsAndEmits
  intro s hh hw
  rw [exec_push1, pushBit_eq (by omega) hw]
  set u := s.setWork (shiftedWork s.work s.bArg)
  have hheld : u.work.held.toNat = s.work.held.toNat + 1 := shiftedWork_held_toNat s.bArg hh
  have hwbits : u.work.wbits.toNat = s.work.wbits.toNat + 1 := shiftedWork_wbits_toNat s.bArg hw
  have hfull : u.work.held = 8 ↔ s.work.held.toNat = 7 := by bv_omega
  refine ⟨fun h7 => ?_, fun h7 hr => ?_, fun h7 hr => ?_⟩
  · rw [emitFull_not_full (mt hfull.1 (Nat.ne_of_lt h7))]
    exact ⟨_, rfl, shiftedWork_acc_toNat s.work s.bArg, hheld, hwbits, rfl⟩
  · obtain ⟨hnew, hold, hlen⟩ := appended_byte (shiftIn s.work.acc s.bArg) hr
    rw [emitFull_of_room (hfull.2 h7) hr]
    exact ⟨_, rfl, hnew, hold, hlen, rfl, rfl, hwbits, rfl⟩
  · rw [emitFull_no_room (hfull.2 h7) hr]
    exact ⟨_, rfl, (sameOutside_setWork s _).abortedTo .ioOutFull s.phase⟩

end Sys2Proof.Proofs

namespace Sys2Proof.Proofs

open Sys2Proof.Machine Sys2Proof.Safety Sys2Proof.Reference

/-! ### HPAR, check by check: what each one raises and what it lets through -/

/-- The state in which HPAR checks `symbol_count`: it is read into SCOUNT (R196). -/
def counted (s : State) : State := s.setWork (s.work.setScount (BitVec.ofNat 32 (inNat s 0 4)))

theorem counted_scount_toNat {s : State} {n : Nat} (hc : declaredCount s = n) (hn : n ≤ 256) :
    (counted s).work.scount.toNat = n := by
  change (BitVec.ofNat 32 (inNat s 0 4)).toNat = n
  rw [declaredCount_eq hc, BitVec.toNat_ofNat]
  omega

theorem declaredSum_counted (s : State) (n : Nat) : declaredSum (counted s) n = declaredSum s n := by
  have hfreq : ∀ b, declaredFreq (counted s) n b = declaredFreq s n b :=
    declaredFreq_setWork (w := s.work.setScount (BitVec.ofNat 32 (inNat s 0 4))) rfl n
  rw [declaredSum, funext hfreq, declaredSum]

/-- Where IN holds a count, HPAR checks it and goes on to the pairs (R196, R197). -/
theorem hpar_eq_counted {s : State} (h : Loaded s) (h4 : 4 ≤ s.inLen.toNat) :
    hpar s = if declaredCount s < 0 ∨ 256 < declaredCount s then .raise .malCount (counted s)
      else parsePairs (counted s).work.scount.toNat (counted s) := by
  rw [hpar, if_neg (by omega), memReadIn_loaded h (by omega), Res.bind_ok, putWork_eq, Res.bind_ok]
  rfl

/-- A legal count passes (R197). -/
theorem hpar_eq_parsePairs {s : State} {n : Nat} (h : Loaded s) (h4 : 4 ≤ s.inLen.toNat) (hc : declaredCount s = n)
    (hn : n ≤ 256) : hpar s = parsePairs n (counted s) := by
  rw [hpar_eq_counted h h4, if_neg (by omega), counted_scount_toNat hc hn]

/-- Where IN holds all the pairs, they are loaded and the sum of their frequencies is checked (R198, R201). -/
theorem parsePairs_eq {s : State} {n : Nat} (h : Loaded s) (hl : Config.hdrLen n ≤ s.inLen.toNat) :
    ∃ w, parsePairs n s =
      if 2 ^ 64 ≤ declaredSum s n then .raise .malSum (s.setWork w) else parseBits n (s.setWork w) := by
  have hlen : Config.hdrLen n = 13 + 9 * n := rfl
  obtain ⟨w, hw, -, hwf⟩ := getPairs_loaded h (n := n) (by omega)
  have hsum : freqSum w = declaredSum s n := by
    rw [declaredSum, ← funext hwf]
    exact freqSum_eq w
  refine ⟨w, ?_⟩
  rw [parsePairs, if_neg (Nat.not_lt.2 hl), hw, Res.bind_ok, State.setWork_work, hsum]

/-- HPAR comes to the sum check where count and length pass (R196, R201). -/
theorem hpar_eq_sumCheck {s : State} {n : Nat} (h : Loaded s) (hc : declaredCount s = n) (hn : n ≤ 256)
    (hl : Config.hdrLen n ≤ s.inLen.toNat) :
    ∃ w, hpar s = if 2 ^ 64 ≤ declaredSum s n then .raise .malSum (s.setWork w) else parseBits n (s.setWork w) := by
  have h4 : 4 ≤ s.inLen.toNat := (show 4 ≤ 13 + 9 * n by omega).trans hl
  obtain ⟨w, hw⟩ := parsePairs_eq (s := counted s) h hl
  exact ⟨w, by rw [hpar_eq_parsePairs h h4 hc hn, hw, declaredSum_counted]; rfl⟩

/-- A sum below 2^64 passes (R201). -/
theorem hpar_eq_parseBits {s : State} {n : Nat} (h : Loaded s) (hc : declaredCount s = n) (hn : n ≤ 256)
    (hl : Config.hdrLen n ≤ s.inLen.toNat) (hsum : declaredSum s n < 2 ^ 64) :
    ∃ w, hpar s = parseBits n (s.setWork w) := by
  obtain ⟨w, hw⟩ := hpar_eq_sumCheck h hc hn hl
  exact ⟨w, hw.trans (if_neg (Nat.not_le.2 hsum))⟩

/-- Where IN holds the two bit counts, they are checked in turn, whatever the registers hold (R196, R199, R200). -/
theorem parseBits_eq {s : State} {n : Nat} (w : Work) (h : Loaded s) (hl : Config.hdrLen n ≤ s.inLen.toNat) :
    parseBits n (s.setWork w) =
      if (inByte s (4 + 9 * n)).toNat < 1 ∨ 8 < (inByte s (4 + 9 * n)).toNat then
        .raise .malValid (s.setWork (w.setVbits (inByte s (4 + 9 * n))))
      else if availBits (s.inLen.toNat - Config.hdrLen n) (inByte s (4 + 9 * n)).toNat < inNat s (5 + 9 * n) 8 then
        .raise .malTotal (s.setWork (boundsWork w n (inByte s (4 + 9 * n)) (inNat s (5 + 9 * n) 8)))
      else .ok () (s.setWork (boundsWork w n (inByte s (4 + 9 * n)) (inNat s (5 + 9 * n) 8))) := by
  have hlen : Config.hdrLen n = 13 + 9 * n := rfl
  set s1 := s.setWork (w.setVbits (inByte s (4 + 9 * n)))
  have hvalid : getIn (4 + 9 * n) (s.setWork w) = .ok (inByte s (4 + 9 * n)) (s.setWork w) :=
    getIn_loaded (s := s.setWork w) h (by rw [State.setWork_inLen]; omega)
  have htotal : memReadIn 8 (5 + 9 * n) s1 = .ok (inNat s (5 + 9 * n) 8) s1 := by
    rw [memReadIn_loaded (s := s1) h (by rw [State.setWork_inLen]; omega), inNat_setWork]
  rw [parseBits, hvalid, Res.bind_ok, putWork_eq, Res.bind_ok, State.setWork_work, State.setWork_setWork, htotal,
    Res.bind_ok, putWork_eq, Res.bind_ok]
  rfl

/-- Settles O35: each check is reached where the ones before it pass, and what it raises aborts the command. -/
theorem hparChecksInOrder : Obligations.HparChecksInOrder := by
  unfold Obligations.HparChecksInOrder
  intro s h
  refine ⟨fun h4 => runsRule_hpar.aborts (if_pos h4),
    fun h4 hc => runsRule_hpar.aborts ((hpar_eq_counted h h4).trans (if_pos hc)), fun n h4 hc hn =>
    ⟨fun hl => ?truncPairs, fun hl hsum => ?malSum, fun hl hsum hv => ?malValid, fun hl hsum h1 h8 ht => ?malTotal⟩⟩
  case truncPairs => exact runsRule_hpar.aborts ((hpar_eq_parsePairs h h4 hc hn).trans (if_pos hl))
  case malSum =>
    obtain ⟨w, hx⟩ := hpar_eq_sumCheck h hc hn hl
    exact runsRule_hpar.aborts (hx.trans (if_pos hsum))
  case malValid =>
    obtain ⟨w, hx⟩ := hpar_eq_parseBits h hc hn hl hsum
    exact runsRule_hpar.aborts (hx.trans ((parseBits_eq w h hl).trans (if_pos (by omega))))
  case malTotal =>
    obtain ⟨w, hx⟩ := hpar_eq_parseBits h hc hn hl hsum
    exact runsRule_hpar.aborts (hx.trans ((parseBits_eq w h hl).trans ((if_neg (by omega)).trans (if_pos ht))))

end Sys2Proof.Proofs

namespace Sys2Proof.Proofs

open Sys2Proof.Machine Sys2Proof.Safety Sys2Proof.Reference

/-! ### GETB and WFIN -/

theorem payloadBit_toNat (y : Byte) (k : Nat) : (payloadBit y k).toNat = y.toNat / 2 ^ (7 - k % 8) % 2 := by
  rw [payloadBit, BitVec.toNat_ofNat, Nat.pow_one, Nat.mod_mod]

/-- GETB with its payload byte in IN and room in RBITS completes, and BIT and RBITS are all it writes (R216). -/
theorem getb_of_read {s : State} {y : Byte} (hlt : s.work.pbase.toNat + s.work.rbits.toNat / 8 < s.inLen.toNat)
    (hy : s.inBuf.read (s.work.pbase.toNat + s.work.rbits.toNat / 8) = some y) (hrb : s.work.rbits.toNat + 1 < 2 ^ 64) :
    getb s = .ok () (s.setWork (s.work.setBit (payloadBit y s.work.rbits.toNat)
      (BitVec.ofNat 64 (s.work.rbits.toNat + 1)))) := by
  rw [getb, getIn_of_read hlt hy, Res.bind_ok, store_fits hrb, Res.bind_ok, putWork_eq]

/-- Settles O37: GETB's rule fetches the bit and counts it, and the transition behind it writes PHASE alone. -/
theorem getbFetchesBit : Obligations.GetbFetchesBit := by
  unfold Obligations.GetbFetchesBit
  intro s y hlt hy hrb
  refine ⟨fetched s (payloadBit y s.work.rbits.toNat), runsRule_getb.next_of_ok (getb_of_read hlt hy hrb),
    payloadBit_toNat y _, ?_, rfl⟩
  rw [fetched, State.setPhase_work, State.setWork_work, Work.setBit_rbits, BitVec.toNat_ofNat, Nat.mod_eq_of_lt hrb]

/-- Settles O42: WFIN's one test decides between the transition to END(0) and the raise, which aborts. -/
theorem wfinChecksCursor : Obligations.WfinChecksCursor := by
  unfold Obligations.WfinChecksCursor
  refine fun s => ⟨fun hroot => ?_, fun hne => ?_⟩
  · have hw : wfin s = .ok () s := if_pos hroot
    exact runsRule_wfin.next_of_ok hw
  · have hw : wfin s = .raise .malMidCode s := if_neg hne
    exact runsRule_wfin.aborts hw

end Sys2Proof.Proofs
